-- ==== Sys2Proof/Word.lean ====
section
/-! DEFINITION. The widths of the machine's values (R6, R11, R13): every value is an unsigned bit vector. -/

namespace Sys2Proof

/-- A byte: a register V[i], a memory cell, DT, ST, the immediate NN (R11). -/
abbrev Byte := BitVec 8

/-- A 16-bit value: an instruction word, I, PC, a stack entry (R6). -/
abbrev Word := BitVec 16

/-- The 12-bit immediate NNN (R13). -/
abbrev Addr12 := BitVec 12

/-- A 4-bit field of the instruction word (R13). -/
abbrev Nibble := BitVec 4

/-- A register index: always in range, because the field has four bits (R21). -/
abbrev RegIdx := Nibble

/-- The index of V0, the implicit operand of the indexed jump (R21, R108). -/
abbrev V0 : RegIdx := 0#4

/-- The index of VF, the flag register (R22). -/
abbrev VF : RegIdx := 15#4

end Sys2Proof
end

