-- ==== Sys2Proof/Config.lean ====
section
/-! DEFINITION. What the source fixes (R6), the parameters it leaves open (R7) and the free value of RND (R135). -/

namespace Sys2Proof

/-- Memory size in bytes (R6). -/
abbrev Config.memBytes : Nat := 4096

/-- The highest memory address, 0xFFF (R34, R54). -/
abbrev Config.lastAddr : Nat := 0xFFF

/-- Program base address (R6). -/
abbrev Config.programBase : Nat := 0x200

/-- Maximum program image in bytes (R6, R254). -/
abbrev Config.maxImage : Nat := 3584

/-- Bytes of the glyph font (R6). -/
abbrev Config.fontBytes : Nat := 80

/-- Framebuffer columns (R6). -/
abbrev Config.fbColumns : Nat := 64

/-- Framebuffer rows (R6). -/
abbrev Config.fbRows : Nat := 32

/-- `VF_ORDER` (R7, R120): which write wins when result register and VF are the same. -/
inductive VfOrder where
  /-- The result is written first, the flag second. -/
  | flagLast
  /-- The flag is written first, the result second. -/
  | resultLast
  deriving DecidableEq, Repr

/-- `DECODE` (R7, R74, R80). -/
inductive DecodeMode where
  /-- Every fixed bit must match. -/
  | strict
  /-- Family 0 selects on NN alone, families 5 and 9 ignore D. -/
  | lax
  deriving DecidableEq, Repr

/-- `DT_ROUND` (R7, R211): how elapsed time becomes whole timer units. -/
inductive DtRound where
  /-- The floor of the elapsed sixtieths. -/
  | tick
  deriving DecidableEq, Repr

/-- `KEY_OOR` (R7, R152): what a key index above 15 reads as. -/
inductive KeyOor where
  | notPressed
  deriving DecidableEq, Repr

/-- The 80 bytes of the glyph font, `FONT` (R36). -/
abbrev Font := Vector Byte Config.fontBytes

/-- The framebuffer: `fb[y][x]`, row `y` of 32, column `x` of 64 (R33). -/
abbrev Framebuffer := Vector (Vector Bool Config.fbColumns) Config.fbRows

/-- The parameters of R7 that a model takes as arguments, and the time unit of the model.
`RND`, the remaining one, is the free value `Config.randomByte`. -/
structure Params where
  /-- `STACK_DEPTH`: `none` is unbounded (R7). -/
  stackDepth : Option Nat
  /-- `FONT` (R36). -/
  font : Font
  /-- `VF_ORDER` (R120). -/
  vfOrder : VfOrder
  /-- `DECODE` (R74). -/
  decodeMode : DecodeMode
  /-- `DT_ROUND` (R211). -/
  dtRound : DtRound
  /-- `FB_RESET` (R33). -/
  fbReset : Framebuffer
  /-- `KEY_OOR` (R152). -/
  keyOor : KeyOor
  /-- How many of the model's time units make one sixtieth of a second. DESIGN CHOICE, log 9. -/
  unitsPerTick : Nat
  deriving DecidableEq, Repr

/-- FREE VALUE (R135, U12): the byte of the n-th draw of the random source, n counted by `State.draws`. It has no body, so
nothing can be proved of it but what holds for every supply of bytes. Log 11. -/
opaque Config.randomByte : Nat → Byte

end Sys2Proof
end

