-- ==== Sys2Proof/Syntax.lean ====
section
/-! DEFINITION. The 34 instructions of R75, one constructor per row of the opcode map. -/

namespace Sys2Proof

/-- The instructions. Operands have the widths of their fields (R71), so each is in range by its type. -/
inductive Instr where
  /-- 00E0 CLS (R100). -/
  | cls
  /-- 00EE RET (R101). -/
  | ret
  /-- 1NNN JP NNN (R102). -/
  | jp (nnn : Addr12)
  /-- 2NNN CALL NNN (R103). -/
  | call (nnn : Addr12)
  /-- 3XNN SE VX, NN (R104). -/
  | seImm (x : RegIdx) (nn : Byte)
  /-- 4XNN SNE VX, NN (R105). -/
  | sneImm (x : RegIdx) (nn : Byte)
  /-- 5XY0 SE VX, VY (R106). -/
  | seReg (x y : RegIdx)
  /-- 6XNN LD VX, NN (R110). -/
  | ldImm (x : RegIdx) (nn : Byte)
  /-- 7XNN ADD VX, NN (R111). -/
  | addImm (x : RegIdx) (nn : Byte)
  /-- 8XY0 LD VX, VY (R121). -/
  | ldReg (x y : RegIdx)
  /-- 8XY1 OR VX, VY (R122). -/
  | orReg (x y : RegIdx)
  /-- 8XY2 AND VX, VY (R123). -/
  | andReg (x y : RegIdx)
  /-- 8XY3 XOR VX, VY (R124). -/
  | xorReg (x y : RegIdx)
  /-- 8XY4 ADD VX, VY (R125). -/
  | addReg (x y : RegIdx)
  /-- 8XY5 SUB VX, VY (R126). -/
  | subReg (x y : RegIdx)
  /-- 8XY6 SHR VX, VY (R127). -/
  | shr (x y : RegIdx)
  /-- 8XY7 SUBN VX, VY (R128). -/
  | subn (x y : RegIdx)
  /-- 8XYE SHL VX; the Y bits of the word are ignored (R129). -/
  | shl (x : RegIdx)
  /-- 9XY0 SNE VX, VY (R107). -/
  | sneReg (x y : RegIdx)
  /-- ANNN LD I, NNN (R130). -/
  | ldI (nnn : Addr12)
  /-- BNNN JP V0, NNN (R108). -/
  | jpV0 (nnn : Addr12)
  /-- CXNN RND VX, NN (R135). -/
  | rnd (x : RegIdx) (nn : Byte)
  /-- DXYN DRW VX, VY, N (R140). -/
  | drw (x y : RegIdx) (n : Nibble)
  /-- EX9E SKP VX (R150). -/
  | skp (x : RegIdx)
  /-- EXA1 SKNP VX (R151). -/
  | sknp (x : RegIdx)
  /-- FX07 LD VX, DT (R160). -/
  | ldVxDt (x : RegIdx)
  /-- FX0A LD VX, K (R161). -/
  | ldVxK (x : RegIdx)
  /-- FX15 LD DT, VX (R163). -/
  | ldDtVx (x : RegIdx)
  /-- FX18 LD ST, VX (R164). -/
  | ldStVx (x : RegIdx)
  /-- FX1E ADD I, VX (R131). -/
  | addI (x : RegIdx)
  /-- FX29 LD F, VX (R132). -/
  | ldF (x : RegIdx)
  /-- FX33 LD B, VX (R165). -/
  | ldB (x : RegIdx)
  /-- FX55 LD [I], VX (R166). -/
  | ldMemVx (x : RegIdx)
  /-- FX65 LD VX, [I] (R167). -/
  | ldVxMem (x : RegIdx)
  deriving DecidableEq, Repr

end Sys2Proof
end

