-- ==== Sys2Proof/Decode.lean ====
section
/-! DEFINITION. Fields of the instruction word (R71), the decoder (R74 to R80), the encoder and the opcode map (R75). -/

namespace Sys2Proof

/-! ## Byte order and fields -/

/-- The instruction word of two consecutive bytes, big-endian (R52, R70). -/
def wordOfBytes (first second : Byte) : Word := first ++ second

/-- The two bytes of a word in the order they are stored, big-endian (R52). -/
def bytesOfWord (w : Word) : List Byte := [w.extractLsb' 8 8, w.extractLsb' 0 8]

/-- F = w[15:12], the opcode family (R13). -/
def fieldF (w : Word) : Nibble := w.extractLsb' 12 4

/-- X = w[11:8] (R13). -/
def fieldX (w : Word) : Nibble := w.extractLsb' 8 4

/-- Y = w[7:4] (R13). -/
def fieldY (w : Word) : Nibble := w.extractLsb' 4 4

/-- D = w[3:0], the sub-opcode; N in the draw (R13). -/
def fieldD (w : Word) : Nibble := w.extractLsb' 0 4

/-- NN = w[7:0] (R13). -/
def fieldNN (w : Word) : Byte := w.extractLsb' 0 8

/-- NNN = w[11:0] (R13). -/
def fieldNNN (w : Word) : Addr12 := w.extractLsb' 0 12

/-! ## The decoder -/

/-- Family 0 (R76, R80): the whole word under `strict`, NN alone under `lax`. -/
def decodeFamily0 (m : DecodeMode) (x : Nibble) (nn : Byte) : Option Instr :=
  if m = .strict ∧ x ≠ 0#4 then none
  else match nn with
    | 0xE0#8 => some .cls
    | 0xEE#8 => some .ret
    | _ => none

/-- Families 5 and 9 (R76, R80): D must be 0 under `strict`, is ignored under `lax`. -/
def decodeIfD0 (m : DecodeMode) (d : Nibble) (i : Instr) : Option Instr :=
  if m = .strict ∧ d ≠ 0#4 then none else some i

/-- Family 8, "keyed by the low nibble" (R74, R76). -/
def decodeFamily8 (x y d : Nibble) : Option Instr :=
  match d with
  | 0x0#4 => some (.ldReg x y)
  | 0x1#4 => some (.orReg x y)
  | 0x2#4 => some (.andReg x y)
  | 0x3#4 => some (.xorReg x y)
  | 0x4#4 => some (.addReg x y)
  | 0x5#4 => some (.subReg x y)
  | 0x6#4 => some (.shr x y)
  | 0x7#4 => some (.subn x y)
  | 0xE#4 => some (.shl x)
  | _ => none

/-- Family E selects on NN (R76). -/
def decodeFamilyE (x : Nibble) (nn : Byte) : Option Instr :=
  match nn with
  | 0x9E#8 => some (.skp x)
  | 0xA1#8 => some (.sknp x)
  | _ => none

/-- Family F selects on NN (R76). -/
def decodeFamilyF (x : Nibble) (nn : Byte) : Option Instr :=
  match nn with
  | 0x07#8 => some (.ldVxDt x)
  | 0x0A#8 => some (.ldVxK x)
  | 0x15#8 => some (.ldDtVx x)
  | 0x18#8 => some (.ldStVx x)
  | 0x1E#8 => some (.addI x)
  | 0x29#8 => some (.ldF x)
  | 0x33#8 => some (.ldB x)
  | 0x55#8 => some (.ldMemVx x)
  | 0x65#8 => some (.ldVxMem x)
  | _ => none

/-- The instruction a word stands for, `none` for an unknown encoding (R74 to R77, R80). Decode reads no state (R93). -/
def decode (m : DecodeMode) (w : Word) : Option Instr :=
  match fieldF w with
  | 0x0#4 => decodeFamily0 m (fieldX w) (fieldNN w)
  | 0x1#4 => some (.jp (fieldNNN w))
  | 0x2#4 => some (.call (fieldNNN w))
  | 0x3#4 => some (.seImm (fieldX w) (fieldNN w))
  | 0x4#4 => some (.sneImm (fieldX w) (fieldNN w))
  | 0x5#4 => decodeIfD0 m (fieldD w) (.seReg (fieldX w) (fieldY w))
  | 0x6#4 => some (.ldImm (fieldX w) (fieldNN w))
  | 0x7#4 => some (.addImm (fieldX w) (fieldNN w))
  | 0x8#4 => decodeFamily8 (fieldX w) (fieldY w) (fieldD w)
  | 0x9#4 => decodeIfD0 m (fieldD w) (.sneReg (fieldX w) (fieldY w))
  | 0xA#4 => some (.ldI (fieldNNN w))
  | 0xB#4 => some (.jpV0 (fieldNNN w))
  | 0xC#4 => some (.rnd (fieldX w) (fieldNN w))
  | 0xD#4 => some (.drw (fieldX w) (fieldY w) (fieldD w))
  | 0xE#4 => decodeFamilyE (fieldX w) (fieldNN w)
  | _ => decodeFamilyF (fieldX w) (fieldNN w) -- the one value left, F = 0xF

/-- Why a sequence of bytes gives no instruction. -/
inductive DecodeError where
  /-- Fewer than the two bytes of an instruction (R70). -/
  | truncated
  /-- The word matches no row of the opcode map (R77). -/
  | unknownOpcode (w : Word)
  deriving DecidableEq, Repr

/-- Decode the first instruction of any bytes: the instruction and the bytes after it, or the named reason (R70, R77). -/
def decodeBytes (m : DecodeMode) : List Byte → Except DecodeError (Instr × List Byte)
  | first :: second :: rest =>
    match decode m (wordOfBytes first second) with
    | some i => .ok (i, rest)
    | none => .error (.unknownOpcode (wordOfBytes first second))
  | _ => .error .truncated

/-! ## The encoder (the patterns of R75) -/

/-- Format A: `F NNN` (R73). -/
def packA (f : Nibble) (nnn : Addr12) : Word := f ++ nnn

/-- Formats XI and XF: `F X NN` (R73). -/
def packXI (f x : Nibble) (nn : Byte) : Word := f ++ x ++ nn

/-- Formats XY and XYN: `F X Y D` (R73). -/
def packXY (f x y d : Nibble) : Word := f ++ x ++ y ++ d

/-- The word of an instruction (R75). The ignored Y bits of SHL are written 0: DESIGN CHOICE, log 17. -/
def encode : Instr → Word
  | .cls => 0x00E0#16
  | .ret => 0x00EE#16
  | .jp nnn => packA 0x1#4 nnn
  | .call nnn => packA 0x2#4 nnn
  | .seImm x nn => packXI 0x3#4 x nn
  | .sneImm x nn => packXI 0x4#4 x nn
  | .seReg x y => packXY 0x5#4 x y 0x0#4
  | .ldImm x nn => packXI 0x6#4 x nn
  | .addImm x nn => packXI 0x7#4 x nn
  | .ldReg x y => packXY 0x8#4 x y 0x0#4
  | .orReg x y => packXY 0x8#4 x y 0x1#4
  | .andReg x y => packXY 0x8#4 x y 0x2#4
  | .xorReg x y => packXY 0x8#4 x y 0x3#4
  | .addReg x y => packXY 0x8#4 x y 0x4#4
  | .subReg x y => packXY 0x8#4 x y 0x5#4
  | .shr x y => packXY 0x8#4 x y 0x6#4
  | .subn x y => packXY 0x8#4 x y 0x7#4
  | .shl x => packXY 0x8#4 x 0x0#4 0xE#4
  | .sneReg x y => packXY 0x9#4 x y 0x0#4
  | .ldI nnn => packA 0xA#4 nnn
  | .jpV0 nnn => packA 0xB#4 nnn
  | .rnd x nn => packXI 0xC#4 x nn
  | .drw x y n => packXY 0xD#4 x y n
  | .skp x => packXI 0xE#4 x 0x9E#8
  | .sknp x => packXI 0xE#4 x 0xA1#8
  | .ldVxDt x => packXI 0xF#4 x 0x07#8
  | .ldVxK x => packXI 0xF#4 x 0x0A#8
  | .ldDtVx x => packXI 0xF#4 x 0x15#8
  | .ldStVx x => packXI 0xF#4 x 0x18#8
  | .addI x => packXI 0xF#4 x 0x1E#8
  | .ldF x => packXI 0xF#4 x 0x29#8
  | .ldB x => packXI 0xF#4 x 0x33#8
  | .ldMemVx x => packXI 0xF#4 x 0x55#8
  | .ldVxMem x => packXI 0xF#4 x 0x65#8

/-- The bytes of an instruction in the order they are stored (R52, R70). -/
def encodeBytes (i : Instr) : List Byte := bytesOfWord (encode i)

/-! ## The opcode map as data -/

/-- The `match` and `mask` columns of one row of R75. -/
structure OpcodeRow where
  value : Word
  mask : Word
  deriving DecidableEq, Repr

/-- "an instruction word w selects the row when `w & mask = match`" (R75). -/
def OpcodeRow.selects (r : OpcodeRow) (w : Word) : Bool := w &&& r.mask == r.value

/-- The `match` and `mask` of the row an instruction belongs to (R75). -/
def Instr.row : Instr → OpcodeRow
  | .cls => ⟨0x00E0#16, 0xFFFF#16⟩
  | .ret => ⟨0x00EE#16, 0xFFFF#16⟩
  | .jp _ => ⟨0x1000#16, 0xF000#16⟩
  | .call _ => ⟨0x2000#16, 0xF000#16⟩
  | .seImm _ _ => ⟨0x3000#16, 0xF000#16⟩
  | .sneImm _ _ => ⟨0x4000#16, 0xF000#16⟩
  | .seReg _ _ => ⟨0x5000#16, 0xF00F#16⟩
  | .ldImm _ _ => ⟨0x6000#16, 0xF000#16⟩
  | .addImm _ _ => ⟨0x7000#16, 0xF000#16⟩
  | .ldReg _ _ => ⟨0x8000#16, 0xF00F#16⟩
  | .orReg _ _ => ⟨0x8001#16, 0xF00F#16⟩
  | .andReg _ _ => ⟨0x8002#16, 0xF00F#16⟩
  | .xorReg _ _ => ⟨0x8003#16, 0xF00F#16⟩
  | .addReg _ _ => ⟨0x8004#16, 0xF00F#16⟩
  | .subReg _ _ => ⟨0x8005#16, 0xF00F#16⟩
  | .shr _ _ => ⟨0x8006#16, 0xF00F#16⟩
  | .subn _ _ => ⟨0x8007#16, 0xF00F#16⟩
  | .shl _ => ⟨0x800E#16, 0xF00F#16⟩
  | .sneReg _ _ => ⟨0x9000#16, 0xF00F#16⟩
  | .ldI _ => ⟨0xA000#16, 0xF000#16⟩
  | .jpV0 _ => ⟨0xB000#16, 0xF000#16⟩
  | .rnd _ _ => ⟨0xC000#16, 0xF000#16⟩
  | .drw _ _ _ => ⟨0xD000#16, 0xF000#16⟩
  | .skp _ => ⟨0xE09E#16, 0xF0FF#16⟩
  | .sknp _ => ⟨0xE0A1#16, 0xF0FF#16⟩
  | .ldVxDt _ => ⟨0xF007#16, 0xF0FF#16⟩
  | .ldVxK _ => ⟨0xF00A#16, 0xF0FF#16⟩
  | .ldDtVx _ => ⟨0xF015#16, 0xF0FF#16⟩
  | .ldStVx _ => ⟨0xF018#16, 0xF0FF#16⟩
  | .addI _ => ⟨0xF01E#16, 0xF0FF#16⟩
  | .ldF _ => ⟨0xF029#16, 0xF0FF#16⟩
  | .ldB _ => ⟨0xF033#16, 0xF0FF#16⟩
  | .ldMemVx _ => ⟨0xF055#16, 0xF0FF#16⟩
  | .ldVxMem _ => ⟨0xF065#16, 0xF0FF#16⟩

/-- The 34 rows of R75, in the table's order. -/
def opcodeMap : List OpcodeRow :=
  [⟨0x00E0#16, 0xFFFF#16⟩, ⟨0x00EE#16, 0xFFFF#16⟩, ⟨0x1000#16, 0xF000#16⟩, ⟨0x2000#16, 0xF000#16⟩,
   ⟨0x3000#16, 0xF000#16⟩, ⟨0x4000#16, 0xF000#16⟩, ⟨0x5000#16, 0xF00F#16⟩, ⟨0x6000#16, 0xF000#16⟩,
   ⟨0x7000#16, 0xF000#16⟩] ++
  [⟨0x8000#16, 0xF00F#16⟩, ⟨0x8001#16, 0xF00F#16⟩, ⟨0x8002#16, 0xF00F#16⟩, ⟨0x8003#16, 0xF00F#16⟩,
   ⟨0x8004#16, 0xF00F#16⟩, ⟨0x8005#16, 0xF00F#16⟩, ⟨0x8006#16, 0xF00F#16⟩, ⟨0x8007#16, 0xF00F#16⟩,
   ⟨0x800E#16, 0xF00F#16⟩] ++
  [⟨0x9000#16, 0xF00F#16⟩, ⟨0xA000#16, 0xF000#16⟩, ⟨0xB000#16, 0xF000#16⟩, ⟨0xC000#16, 0xF000#16⟩,
   ⟨0xD000#16, 0xF000#16⟩, ⟨0xE09E#16, 0xF0FF#16⟩, ⟨0xE0A1#16, 0xF0FF#16⟩] ++
  [⟨0xF007#16, 0xF0FF#16⟩, ⟨0xF00A#16, 0xF0FF#16⟩, ⟨0xF015#16, 0xF0FF#16⟩, ⟨0xF018#16, 0xF0FF#16⟩,
   ⟨0xF01E#16, 0xF0FF#16⟩, ⟨0xF029#16, 0xF0FF#16⟩, ⟨0xF033#16, 0xF0FF#16⟩, ⟨0xF055#16, 0xF0FF#16⟩,
   ⟨0xF065#16, 0xF0FF#16⟩]

/-! ## The host's view of the decoder -/

/-- The word of a table row's bits: `nbits` bits of `w`, zero above. -/
def tableWord (nbits w : Nat) : Word := BitVec.ofNat 16 (w % 2 ^ nbits)

/-- The instruction the decoder reads from the table word `w`, its bytes laid out big-endian, under the default
`DECODE = strict` (R7). -/
def decodeTableWord (nbits w : Nat) : Option Instr :=
  match decodeBytes .strict (bytesOfWord (tableWord nbits w)) with
  | .ok (i, _) => some i
  | .error _ => none

end Sys2Proof
end

