-- ==== Sys2Proof/Machine/Memory.lean ====
section
/-! DEFINITION. The 4096-byte memory as a canonical list of cells (R34, R35). -/

namespace Sys2Proof.Machine

/-- Memory: the bytes that differ from their reset content, addresses strictly rising (`Memory.wf`). -/
abbrev Memory := List Host.Cell

/-- What an unlisted address reads as: its content after reset, `FONT` in 0x000 to 0x04F and 0 above (R35). Log 3. -/
def unlisted (font : Font) (a : Nat) : Byte := if h : a < 80 then font[a] else 0#8

/-- `MEM[a]` (R34). -/
def Memory.read (font : Font) : Memory → Nat → Byte
  | [], a => unlisted font a
  | (b, u) :: m, a => if a = b then u else Memory.read font m a

/-- The cell (a, v) in front of `m`, left out if it says what an unlisted address reads as. -/
def Memory.cons (font : Font) (a : Nat) (v : Byte) (m : Memory) : Memory :=
  if v = unlisted font a then m else (a, v) :: m

/-- `MEM[a] <- v` (R12), the canonical form kept. -/
def Memory.write (font : Font) : Memory → Nat → Byte → Memory
  | [], a, v => Memory.cons font a v []
  | (b, u) :: m, a, v =>
    if a < b then Memory.cons font a v ((b, u) :: m)
    else if a = b then Memory.cons font a v m
    else (b, u) :: Memory.write font m a v

/-- The canonical form from address `lo` on: addresses strictly rising, at least `lo`, below 4096, and no cell that says
what an unlisted address reads as. -/
def Memory.wfFrom (font : Font) : Nat → Memory → Bool
  | _, [] => true
  | lo, (a, v) :: m =>
    decide (lo ≤ a) && decide (a < Config.memBytes) && decide (v ≠ unlisted font a) && Memory.wfFrom font (a + 1) m

/-- The canonical form of memory. -/
def Memory.wf (font : Font) (m : Memory) : Bool := Memory.wfFrom font 0 m

end Sys2Proof.Machine
end

