-- ==== Sys2Proof/Machine/State.lean ====
section
/-! DEFINITION. The state of the machine (R20), its reset value (R41), and the reasons a step could stop. -/

namespace Sys2Proof.Machine

/-- `MODE` (R37): what the core does with a step request. -/
inductive Mode where
  /-- Between steps; a step request is accepted. -/
  | run
  /-- An FX0A with X = x has suspended its step (R161). -/
  | waitKey (x : RegIdx)
  /-- A fatal fault has occurred; left by reset only (R201). -/
  | halt
  deriving DecidableEq, Repr

/-- `CAUSE` (R38): why the core halted. -/
inductive Cause where
  | none
  | stackUnderflow
  | stackOverflow
  | memoryOutOfRange
  deriving DecidableEq, Repr

/-- The cause codes of R38 and R200. -/
def Cause.code : Cause → Nat
  | .none => 0
  | .stackUnderflow => 1
  | .stackOverflow => 2
  | .memoryOutOfRange => 3

/-- What the agents other than the core do to the machine between steps (R10). -/
inductive Input where
  /-- `units` of the model's time units pass (R210, R211; log 9). -/
  | elapse (units : Nat)
  /-- Key `k` goes down or up (R217). -/
  | key (k : Fin 16) (down : Bool)
  /-- The Input Source answers the key wait with key `k` (R218). -/
  | deliver (k : Fin 16)
  /-- The host loads an image (R254). -/
  | load (bytes : List Byte)
  /-- The host resets the core (R250). -/
  | reset
  deriving DecidableEq, Repr

/-- One move of an agent (R10): the host requests a step, or an input arrives. Log 8. -/
inductive Move where
  | stepRequest
  | input (e : Input)
  deriving DecidableEq, Repr

/-- What the machine shows to the outside as an event. Log 12. -/
inductive Output where
  /-- `Present()` (R216). -/
  | present
  /-- The diagnostic UnknownOpcode with the word and the address it was fetched from (R204). -/
  | unknownOpcode (w : Word) (addr : Word)
  /-- The load port's failure answer (R205, R254). -/
  | imageTooLarge
  deriving DecidableEq, Repr

/-- The state. The first twelve fields are R20's; the last five are the model's own: inputs and parameters, which R40 says are
not the core's, and the trace of outputs (INVENTORY.md, State). -/
structure State where
  /-- `V[0]` to `V[15]` (R21). -/
  v : Vector Byte 16
  /-- The address register `I` (R24). -/
  i : Word
  /-- `PC` (R25). -/
  pc : Word
  /-- The call stack, newest entry first (R28). -/
  stack : List Word
  /-- The delay timer `DT` (R31). -/
  dt : Byte
  /-- The tick phase of `DT`: time units since the last tick or restart (R31; log 9). -/
  phase : Nat
  /-- The sound timer `ST` (R32). -/
  st : Byte
  /-- Memory (R34). -/
  mem : Memory
  /-- The framebuffer (R33). -/
  fb : Framebuffer
  /-- `MODE` (R37). -/
  mode : Mode
  /-- `CAUSE` (R38). -/
  cause : Cause
  /-- `UNK` (R39). -/
  unk : Bool
  /-- The pressed state of the 16 keys, owned by the Input Source (R40, R217; log 10). -/
  keys : Vector Bool 16
  /-- How many random bytes have been drawn (R135; log 11). -/
  draws : Nat
  /-- The output events so far, newest first (log 12). -/
  outputs : List Output
  /-- The moves that come before the next free-running step request (log 8). -/
  pending : List Move
  /-- The parameters of R7; no step changes them (log 1). -/
  params : Params
  deriving DecidableEq, Repr

/-- The reset values of R41 under the parameters `p`; the model's own fields as log 8, 10, 11 and 12 say. -/
def State.resetWith (p : Params) : State where
  v := Vector.replicate 16 0#8
  i := 0#16
  pc := 0x200#16
  stack := []
  dt := 0#8
  phase := 0
  st := 0#8
  mem := []
  fb := p.fbReset
  mode := .run
  cause := .none
  unk := false
  keys := Vector.replicate 16 false
  draws := 0
  outputs := []
  pending := []
  params := p

/-- The machine right after reset, under the default parameters of R7 (R41, R250). -/
def State.reset : State := State.resetWith defaultParams

/-- The reasons a step of the model stops with a fault: there are none. Every fatal fault of R200 has an effect the spec
describes, the halt state, so it is a next state (log 7); a diagnostic is one too (R204). -/
inductive Fault where
  deriving DecidableEq, Repr

/-- The reasons a step of the model is refused. -/
inductive Refusal where
  /-- Raised by an arm of `exec` for an instruction that has no meaning yet: by no arm now. Safe: the model stops. -/
  | notModelled (mnemonic : String)
  deriving DecidableEq, Repr

end Sys2Proof.Machine
end

