-- ==== Sys2Proof/Machine/Ops.lean ====
section
/-! DEFINITION. The named operations over registers, the stack, memory and control state (R12). -/

namespace Sys2Proof.Machine

/-! ## Registers -/

/-- `V[x]` (R12, R21). -/
def State.reg (s : State) (x : RegIdx) : Byte := s.v[x.toNat]'x.isLt

/-- `V[x] <- a` (R12, R21). -/
def State.setReg (s : State) (x : RegIdx) (a : Byte) : State := { s with v := s.v.set x.toNat a x.isLt }

/-- `I <- a` (R24). -/
def State.setI (s : State) (a : Word) : State := { s with i := a }

/-- `PC <- a` (R25). -/
def State.setPc (s : State) (a : Word) : State := { s with pc := a }

/-- `PC <- (PC + 2) mod 65536`: the advance of a step and of a skip (R92, R104). -/
def State.advancePc (s : State) : State := s.setPc (s.pc + 2#16)

/-- `ST <- a` (R32). -/
def State.setSt (s : State) (a : Byte) : State := { s with st := a }

/-- `DT <- a`, which restarts the tick phase (R31, R163). -/
def State.setDt (s : State) (a : Byte) : State := { s with dt := a, phase := 0 }

/-! ## Taking a fatal fault -/

/-- `raise F`: "`MODE <- HALT; CAUSE <- code of F`; the step ends" and nothing more (R200). There is no return from it but
reset (R201, R207). -/
def State.raise (s : State) (c : Cause) : State := { s with mode := .halt, cause := c }

/-! ## Other control state -/

/-- `MODE <- WAITKEY(x)`: the step is suspended (R161). -/
def State.suspend (s : State) (x : RegIdx) : State := { s with mode := .waitKey x }

/-- `MODE <- RUN`: the suspended step is complete (R161). -/
def State.resume (s : State) : State := { s with mode := .run }

/-- An output event is added to the trace (log 12). -/
def State.emit (s : State) (o : Output) : State := { s with outputs := o :: s.outputs }

/-- `diag UnknownOpcode(w)`: `UNK <- 1` and one event with the word and its address (R204). -/
def State.diagUnknown (s : State) (w addr : Word) : State := { s.emit (.unknownOpcode w addr) with unk := true }

/-- One random byte is drawn (R135): the next draw is another one. -/
def State.countDraw (s : State) : State := { s with draws := s.draws + 1 }

/-- `RandomByte()`: the free value of the next draw (R135; log 11). -/
def State.randomByte (s : State) : Byte := Config.randomByte s.draws

/-! ## The call stack -/

/-- The call stack is replaced. -/
def State.setStack (s : State) (l : List Word) : State := { s with stack := l }

/-- The stack holds `STACK_DEPTH` entries; never true of an unbounded one (R29). -/
def State.stackFull (s : State) : Bool :=
  match s.params.stackDepth with
  | none => false
  | some d => decide (d ≤ s.stack.length)

/-- `Push(a)` and then `k`: `raise StackOverflow` with the stack unchanged if it is full (R29). -/
def State.pushThen (s : State) (a : Word) (k : State → State) : State :=
  if s.stackFull then s.raise .stackOverflow else k (s.setStack (a :: s.stack))

/-- `Pop()` and then `k` of its result: `raise StackUnderflow` if the stack is empty (R30). -/
def State.popThen (s : State) (k : Word → State → State) : State :=
  match s.stack with
  | [] => s.raise .stackUnderflow
  | a :: rest => k a (s.setStack rest)

/-! ## Memory -/

/-- `MEM[a]` (R12, R34). -/
def State.byte (s : State) (a : Nat) : Byte := Memory.read s.params.font s.mem a

/-- `MEM[a] <- b` (R12). -/
def State.setByte (s : State) (a : Nat) (b : Byte) : State := { s with mem := Memory.write s.params.font s.mem a b }

/-- `n` bytes from `base` on reach above 0xFFF, the addresses computed without wrap; no bytes never do (R54). -/
def outOfRange (base n : Nat) : Bool := decide (0 < n) && decide (Config.lastAddr < base + (n - 1))

/-- The range check of an instruction that accesses `n` bytes from `base` on, before any of its effects (R54). -/
def State.checkedRange (s : State) (base n : Nat) (k : State → State) : State :=
  if outOfRange base n then s.raise .memoryOutOfRange else k s

/-- Bytes written at ascending addresses from `base` on (R58). -/
def State.writeBytes (base : Nat) : List Byte → State → State
  | [], s => s
  | b :: bs, s => State.writeBytes (base + 1) bs (s.setByte base b)

/-- The `n` bytes from `base` on, in ascending order (R58). -/
def State.readBytes (s : State) (base n : Nat) : List Byte := (List.range n).map fun k => s.byte (base + k)

/-- `V[0]` to `V[n-1]`, in ascending order (R166). -/
def State.firstRegs (s : State) (n : Nat) : List Byte := (List.range n).map fun k => s.reg (BitVec.ofNat 4 k)

/-- `V[k] <- MEM[base + k]` for k in 0 to n-1, ascending (R167). -/
def State.loadRegs (base : Nat) : Nat → State → State
  | 0, s => s
  | n + 1, s => (State.loadRegs base n s).setReg (BitVec.ofNat 4 n) (s.byte (base + n))

/-! ## Fetch -/

/-- The two bytes of a fetch at PC reach above 0xFFF (R54, R91). -/
def State.fetchFaults (s : State) : Bool := outOfRange s.pc.toNat 2

/-- `w <- MEM[PC] * 256 + MEM[PC+1]` (R91). -/
def State.fetchWord (s : State) : Word := wordOfBytes (s.byte s.pc.toNat) (s.byte (s.pc.toNat + 1))

end Sys2Proof.Machine
end

