-- ==== Sys2Proof/Machine/Flags.lean ====
section
/-! DEFINITION. The flag computations of R23, and how a flag is written (R22, R120). -/

namespace Sys2Proof.Machine

/-- "it writes the whole byte with the value 0 or 1" (R22). -/
def flagByte (c : Bool) : Byte := if c then 1#8 else 0#8

/-- ADD: 1 if a + b > 255 (R125). -/
def addCarry (a b : Byte) : Bool := decide (255 < a.toNat + b.toNat)

/-- SUB: 0 if a < b, else 1 (R126). -/
def subNoBorrow (a b : Byte) : Bool := !decide (a.toNat < b.toNat)

/-- SHR: bit 0 of the old VX (R127). -/
def shrOut (a : Byte) : Bool := a.getLsbD 0

/-- SUBN: 1 if VY > VX (R128). -/
def subnFlag (a b : Byte) : Bool := decide (a.toNat < b.toNat)

/-- SHL: bit 7 of the old VX (R129). -/
def shlOut (a : Byte) : Bool := a.getLsbD 7

/-- ADD I: 1 if the unwrapped sum exceeds 0xFFF (R131). -/
def addIOverflow (i : Word) (a : Byte) : Bool := decide (0xFFF < i.toNat + a.toNat)

/-- `VF <- c` (R22). -/
def State.setFlag (s : State) (c : Bool) : State := s.setReg VF (flagByte c)

/-- The two writes of an instruction with a result in VX and a flag in VF, in the order `VF_ORDER` says (R120; log 5). -/
def State.setResultAndFlag (s : State) (x : RegIdx) (r : Byte) (c : Bool) : State :=
  match s.params.vfOrder with
  | .flagLast => (s.setReg x r).setFlag c
  | .resultLast => (s.setFlag c).setReg x r

end Sys2Proof.Machine
end

