-- ==== Sys2Proof/Machine/Operands.lean ====
section
/-! DEFINITION. The operand forms: immediates (R72), the base address in I (R54), digits of a byte (R165), keys (R152). -/

namespace Sys2Proof.Machine

/-- NNN zero-extended to a 16-bit register (R72). -/
def addrOperand (nnn : Addr12) : Word := nnn.setWidth 16

/-- A byte added to a 16-bit register is zero-extended (R11, R108, R131). -/
def byteOperand (a : Byte) : Word := a.setWidth 16

/-- A key index stored in a register (R161). -/
def keyOperand (k : Fin 16) : Byte := BitVec.ofNat 8 k.val

/-- The base of a memory operand "at I plus a count", a natural number that never wraps (R54, R72). -/
def State.base (s : State) : Nat := s.i.toNat

/-- How many registers FX55 and FX65 move: V0 to VX inclusive (R166, R167). -/
def regCount (x : RegIdx) : Nat := x.toNat + 1

/-- The address of the glyph of a byte's low nibble: glyph base 0x000, 5 bytes a glyph (R132). -/
def glyphAddr (a : Byte) : Word := BitVec.ofNat 16 (0x000 + (a &&& 0x0F#8).toNat * 5)

/-- The hundreds, tens and ones of a byte (R165). -/
def bcdDigits (a : Byte) : List Byte :=
  [BitVec.ofNat 8 (a.toNat / 100), BitVec.ofNat 8 (a.toNat / 10 % 10), BitVec.ofNat 8 (a.toNat % 10)]

/-- `KeyDown(k)` (R152): the pressed state of key k, or `KEY_OOR` for k above 15. -/
def State.keyDown (s : State) (k : Byte) : Bool :=
  if h : k.toNat < 16 then s.keys[k.toNat]
  else match s.params.keyOor with
    | .notPressed => false

/-- A skip: PC advances by an extra 2 if the condition holds (R104). -/
def State.skipIf (s : State) (c : Bool) : State := if c then s.advancePc else s

end Sys2Proof.Machine
end

