-- ==== Sys2Proof/Machine/Address.lean ====
section
/-! DEFINITION. Address register instructions (R130 to R132). -/

namespace Sys2Proof.Machine

/-- LD I, NNN (R130). -/
def execLdI (nnn : Addr12) (s : State) : Host.Outcome State Fault Refusal := .next (s.setI (addrOperand nnn))

/-- ADD I, VX: the sum wraps at 16 bits, VF says that it exceeds 0xFFF (R131). -/
def execAddI (x : RegIdx) (s : State) : Host.Outcome State Fault Refusal :=
  .next ((s.setI (s.i + byteOperand (s.reg x))).setFlag (addIOverflow s.i (s.reg x)))

/-- LD F, VX: `I <- 0x000 + (V[X] & 0x0F) * 5`; memory is not read (R132). -/
def execLdF (x : RegIdx) (s : State) : Host.Outcome State Fault Refusal := .next (s.setI (glyphAddr (s.reg x)))

end Sys2Proof.Machine
end

