-- ==== Sys2Proof/Machine/Alu.lean ====
section
/-! DEFINITION. Register-to-register ALU (R120 to R129): operands are read before anything is written. -/

namespace Sys2Proof.Machine

/-- LD VX, VY (R121). -/
def execLdReg (x y : RegIdx) (s : State) : Host.Outcome State Fault Refusal := .next (s.setReg x (s.reg y))

/-- OR VX, VY; VF untouched (R122). -/
def execOr (x y : RegIdx) (s : State) : Host.Outcome State Fault Refusal := .next (s.setReg x (s.reg x ||| s.reg y))

/-- AND VX, VY; VF untouched (R123). -/
def execAnd (x y : RegIdx) (s : State) : Host.Outcome State Fault Refusal := .next (s.setReg x (s.reg x &&& s.reg y))

/-- XOR VX, VY; VF untouched (R124). -/
def execXor (x y : RegIdx) (s : State) : Host.Outcome State Fault Refusal := .next (s.setReg x (s.reg x ^^^ s.reg y))

/-- ADD VX, VY: `(a + b) mod 256`, VF the carry (R125). -/
def execAdd (x y : RegIdx) (s : State) : Host.Outcome State Fault Refusal :=
  .next (s.setResultAndFlag x (s.reg x + s.reg y) (addCarry (s.reg x) (s.reg y)))

/-- The result of SUB: "right-minus-left" when left < right, else left minus right (R126). -/
def subResult (a b : Byte) : Byte := if a.toNat < b.toNat then b - a else a - b

/-- SUB VX, VY with the source's borrow policy (R126). -/
def execSub (x y : RegIdx) (s : State) : Host.Outcome State Fault Refusal :=
  .next (s.setResultAndFlag x (subResult (s.reg x) (s.reg y)) (subNoBorrow (s.reg x) (s.reg y)))

/-- SHR VX, VY: the value is VY shifted, the flag bit 0 of the old VX (R127). -/
def execShr (x y : RegIdx) (s : State) : Host.Outcome State Fault Refusal :=
  .next (s.setResultAndFlag x (s.reg y >>> 1) (shrOut (s.reg x)))

/-- SUBN VX, VY: `(b - a) mod 256`, VF 1 only if VY > VX (R128). -/
def execSubn (x y : RegIdx) (s : State) : Host.Outcome State Fault Refusal :=
  .next (s.setResultAndFlag x (s.reg y - s.reg x) (subnFlag (s.reg x) (s.reg y)))

/-- SHL VX: `(a << 1) mod 256`, VF the old bit 7 (R129). -/
def execShl (x : RegIdx) (s : State) : Host.Outcome State Fault Refusal :=
  .next (s.setResultAndFlag x (s.reg x <<< 1) (shlOut (s.reg x)))

end Sys2Proof.Machine
end

