-- ==== Sys2Proof/Machine/Display.lean ====
section
/-! DEFINITION. The Display Surface operations (R214 to R216) and the sprite rasterizer (R140 to R145). -/

namespace Sys2Proof.Machine

/-- The pixel in column x and row y of a framebuffer (R33). -/
def fbPixel (fb : Framebuffer) (x : Fin 64) (y : Fin 32) : Bool := fb[y][x]

/-- `FB[y][x]` (R33). -/
def State.pixel (s : State) (x : Fin 64) (y : Fin 32) : Bool := fbPixel s.fb x y

/-- The framebuffer is replaced: only `Clear` and the toggles of a draw do (R33). -/
def State.setFb (s : State) (fb : Framebuffer) : State := { s with fb := fb }

/-- `Clear()` (R214). -/
def State.clear (s : State) : State := s.setFb blankFramebuffer

/-- `Present()`: an output event, no change of state (R216). -/
def State.present (s : State) : State := s.emit .present

/-- `Toggle(x, y)`: the flipped framebuffer and the pixel's state before the flip (R215). -/
def toggle (fb : Framebuffer) (x : Fin 64) (y : Fin 32) : Framebuffer × Bool :=
  (fb.set y (fb[y].set x (!fbPixel fb x y)), fbPixel fb x y)

/-- Column `(x0 + col) mod 64` (R141). -/
def pixelColumn (x0 col : Nat) : Fin 64 := Fin.ofNat 64 (x0 + col)

/-- Row `(y0 + row) mod 32` (R141). -/
def pixelRow (y0 row : Nat) : Fin 32 := Fin.ofNat 32 (y0 + row)

/-- Bit `col` of a sprite row, column 0 its bit 7 (R140). -/
def spriteBit (b : Byte) (col : Nat) : Bool := b.getLsbD (7 - col)

/-- The first `n` columns of a sprite row drawn in ascending order, and whether a toggled pixel was set (R140, R142). -/
def drawColumns (x0 : Nat) (y : Fin 32) (b : Byte) : Nat → Framebuffer → Framebuffer × Bool
  | 0, fb => (fb, false)
  | n + 1, fb =>
    let r := drawColumns x0 y b n fb
    if spriteBit b n then
      let t := toggle r.1 (pixelColumn x0 n) y
      (t.1, r.2 || t.2)
    else r

/-- The sprite rows drawn in ascending order, the first of them row `row`, and whether a toggled pixel was set (R140). -/
def drawRows (x0 y0 : Nat) : Nat → List Byte → Framebuffer → Framebuffer × Bool
  | _, [], fb => (fb, false)
  | row, b :: bs, fb =>
    let r := drawColumns x0 (pixelRow y0 row) b 8 fb
    let q := drawRows x0 y0 (row + 1) bs r.1
    (q.1, r.2 || q.2)

/-- A whole sprite at (x0, y0): the framebuffer after it, and the collision (R140). -/
def drawSprite (x0 y0 : Nat) (rows : List Byte) (fb : Framebuffer) : Framebuffer × Bool := drawRows x0 y0 0 rows fb

end Sys2Proof.Machine
end

