-- ==== Sys2Proof/Machine/ControlFlow.lean ====
section
/-! DEFINITION. Control flow (R100 to R108). Each meaning runs in the execute phase: PC is already A + 2 (R92, R94). -/

namespace Sys2Proof.Machine

/-- CLS: `Clear()`; no Present, VF unchanged (R100). -/
def execCls (s : State) : Host.Outcome State Fault Refusal := .next s.clear

/-- RET: `PC <- Pop()` (R101). -/
def execRet (s : State) : Host.Outcome State Fault Refusal := .next (s.popThen fun a t => t.setPc a)

/-- JP: `PC <- NNN` (R102). -/
def execJp (nnn : Addr12) (s : State) : Host.Outcome State Fault Refusal := .next (s.setPc (addrOperand nnn))

/-- CALL: `Push(PC)`, the advanced PC, then `PC <- NNN` (R103). -/
def execCall (nnn : Addr12) (s : State) : Host.Outcome State Fault Refusal :=
  .next (s.pushThen s.pc fun t => t.setPc (addrOperand nnn))

/-- SE VX, NN: skip if equal (R104). -/
def execSeImm (x : RegIdx) (nn : Byte) (s : State) : Host.Outcome State Fault Refusal :=
  .next (s.skipIf (s.reg x == nn))

/-- SNE VX, NN: skip if different (R105). -/
def execSneImm (x : RegIdx) (nn : Byte) (s : State) : Host.Outcome State Fault Refusal :=
  .next (s.skipIf (s.reg x != nn))

/-- SE VX, VY: skip if equal (R106). -/
def execSeReg (x y : RegIdx) (s : State) : Host.Outcome State Fault Refusal :=
  .next (s.skipIf (s.reg x == s.reg y))

/-- SNE VX, VY: skip if different (R107). -/
def execSneReg (x y : RegIdx) (s : State) : Host.Outcome State Fault Refusal :=
  .next (s.skipIf (s.reg x != s.reg y))

/-- JP V0, NNN: `PC <- (NNN + V[0]) mod 65536`, not reduced to 12 bits (R108). -/
def execJpV0 (nnn : Addr12) (s : State) : Host.Outcome State Fault Refusal :=
  .next (s.setPc (addrOperand nnn + byteOperand (s.reg V0)))

end Sys2Proof.Machine
end

