-- ==== Sys2Proof/Machine/Draw.lean ====
section
/-! DEFINITION. The sprite draw (R140 to R146). -/

namespace Sys2Proof.Machine

/-- What DRW VX, VY, N draws: the framebuffer after it, and the collision (R140). -/
def State.spriteDrawn (s : State) (x y : RegIdx) (n : Nibble) : Framebuffer × Bool :=
  drawSprite (s.reg x).toNat (s.reg y).toNat (s.readBytes s.base n.toNat) s.fb

/-- DRW VX, VY, N: the range check, the toggles, `VF <- hit`, `Present()` (R140, R146). With N = 0 only the last two (R143). -/
def execDrw (x y : RegIdx) (n : Nibble) (s : State) : Host.Outcome State Fault Refusal :=
  .next (s.checkedRange s.base n.toNat fun t =>
    ((t.setFb (s.spriteDrawn x y n).1).setFlag (s.spriteDrawn x y n).2).present)

end Sys2Proof.Machine
end

