-- ==== Sys2Proof/Machine/Immediate.lean ====
section
/-! DEFINITION. Immediate instructions on one register (R110, R111); no flag. -/

namespace Sys2Proof.Machine

/-- LD VX, NN: `V[X] <- NN` (R110). -/
def execLdImm (x : RegIdx) (nn : Byte) (s : State) : Host.Outcome State Fault Refusal := .next (s.setReg x nn)

/-- ADD VX, NN: `V[X] <- (V[X] + NN) mod 256`, VF not written (R111). -/
def execAddImm (x : RegIdx) (nn : Byte) (s : State) : Host.Outcome State Fault Refusal :=
  .next (s.setReg x (s.reg x + nn))

end Sys2Proof.Machine
end

