-- ==== Sys2Proof/Machine/Key.lean ====
section
/-! DEFINITION. Key-conditional skips (R150 to R152). -/

namespace Sys2Proof.Machine

/-- SKP VX: skip if the key is pressed (R150). -/
def execSkp (x : RegIdx) (s : State) : Host.Outcome State Fault Refusal := .next (s.skipIf (s.keyDown (s.reg x)))

/-- SKNP VX: skip if the key is not pressed (R151). -/
def execSknp (x : RegIdx) (s : State) : Host.Outcome State Fault Refusal := .next (s.skipIf (!s.keyDown (s.reg x)))

end Sys2Proof.Machine
end

