-- ==== Sys2Proof/Machine/Random.lean ====
section
/-! DEFINITION. The random instruction (R135). -/

namespace Sys2Proof.Machine

/-- RND VX, NN: `V[X] <- r & NN` for a free byte r (R135; log 11). -/
def execRnd (x : RegIdx) (nn : Byte) (s : State) : Host.Outcome State Fault Refusal :=
  .next (s.countDraw.setReg x (s.randomByte &&& nn))

end Sys2Proof.Machine
end

