-- ==== Sys2Proof/Machine/TimerMisc.lean ====
section
/-! DEFINITION. Timers, the key wait and memory transfer (R160 to R167). -/

namespace Sys2Proof.Machine

/-- LD VX, DT: `V[X] <- DT` (R160). -/
def execLdVxDt (x : RegIdx) (s : State) : Host.Outcome State Fault Refusal := .next (s.setReg x s.dt)

/-- LD VX, K: `MODE <- WAITKEY(X)`; `State.deliver` completes it (R161). -/
def execLdVxK (x : RegIdx) (s : State) : Host.Outcome State Fault Refusal := .next (s.suspend x)

/-- LD DT, VX: `DT <- V[X]`, and the tick phase restarts (R163). -/
def execLdDtVx (x : RegIdx) (s : State) : Host.Outcome State Fault Refusal := .next (s.setDt (s.reg x))

/-- LD ST, VX: `ST <- V[X]` (R164). -/
def execLdStVx (x : RegIdx) (s : State) : Host.Outcome State Fault Refusal := .next (s.setSt (s.reg x))

/-- LD B, VX: hundreds, tens and ones at I, I+1, I+2 (R165). -/
def execLdB (x : RegIdx) (s : State) : Host.Outcome State Fault Refusal :=
  .next (s.checkedRange s.base 3 (State.writeBytes s.base (bcdDigits (s.reg x))))

/-- LD [I], VX: V0 to VX into memory from I on; I unchanged (R166). -/
def execLdMemVx (x : RegIdx) (s : State) : Host.Outcome State Fault Refusal :=
  .next (s.checkedRange s.base (regCount x) (State.writeBytes s.base (s.firstRegs (regCount x))))

/-- LD VX, [I]: V0 to VX from memory from I on; I unchanged (R167). -/
def execLdVxMem (x : RegIdx) (s : State) : Host.Outcome State Fault Refusal :=
  .next (s.checkedRange s.base (regCount x) (State.loadRegs s.base (regCount x)))

end Sys2Proof.Machine
end

