-- ==== Sys2Proof/WellFormed.lean ====
section
/-! DEFINITION. What is well-formed: an instruction, the parameters of R7, a program image. -/

namespace Sys2Proof

/-- Every term of `Instr` is well-formed: "index bounds (0–15) are guaranteed by the 4-bit field width of the decode step"
(R21), and NN and NNN have no excluded value (R72). There is no check left that an ill-formed term could fail. -/
def Instr.wellFormed : Instr → Bool := fun _ => true

/-- `STACK_DEPTH` is at least 1 or unbounded (R7), and a sixtieth of a second has at least one time unit (log 9). -/
def Params.wellFormed (p : Params) : Bool :=
  (match p.stackDepth with
    | none => true
    | some d => decide (1 ≤ d)) && decide (1 ≤ p.unitsPerTick)

/-- An image of more than 3584 bytes is too large (R254). -/
def imageFits (bytes : List Byte) : Bool := decide (bytes.length ≤ Config.maxImage)

end Sys2Proof
end

