-- ==== Sys2Proof/Machine/Environment.lean ====
section
/-! DEFINITION. What the other agents do between steps (R10): time, keys, load, reset. -/

namespace Sys2Proof.Machine

/-! ## Time -/

/-- `DT` counts down and the phase stays; the register write of R163 is `State.setDt`. -/
def State.countDown (s : State) (a : Byte) : State := { s with dt := a }

/-- The tick phase is set (R31; log 9). -/
def State.setPhase (s : State) (n : Nat) : State := { s with phase := n }

/-- `Tick()`: `if DT > 0 then DT <- DT - 1` (R210). -/
def State.tick (s : State) : State := if s.dt = 0#8 then s else s.countDown (s.dt - 1#8)

/-- `n` ticks, one after another. -/
def State.ticks : Nat → State → State
  | 0, s => s
  | n + 1, s => State.ticks n s.tick

/-- The ticks that fall in a time that ends `t` units after the last tick: the floor of the elapsed sixtieths (R211). -/
def State.ticksIn (s : State) (t : Nat) : Nat :=
  match s.params.dtRound with
  | .tick => t / s.params.unitsPerTick

/-- `units` time units pass: the ticks that fall in them happen, and the phase is what is left (R31, R210; log 9). -/
def State.elapse (s : State) (units : Nat) : State :=
  (State.ticks (s.ticksIn (s.phase + units)) s).setPhase ((s.phase + units) % s.params.unitsPerTick)

/-! ## Keys -/

/-- The Input Source changes the pressed state of a key (R217). -/
def State.setKey (s : State) (k : Fin 16) (down : Bool) : State := { s with keys := s.keys.set k down }

/-- The Input Source answers the key wait with k: "`V[X] <- k`, `MODE <- RUN`" (R161, R218). In another mode there is no wait
to answer, and nothing changes (log 13). -/
def State.deliver (s : State) (k : Fin 16) : State :=
  match s.mode with
  | .waitKey x => (s.setReg x (keyOperand k)).resume
  | .run => s
  | .halt => s

/-! ## Load and reset -/

/-- The load port accepts the image: ImageTooLarge and no change, or the bytes from 0x200 on (R254). -/
def State.loadImage (s : State) (bytes : List Byte) : State :=
  if imageFits bytes then State.writeBytes Config.programBase bytes s else s.emit .imageTooLarge

/-- `Load(bytes)`: accepted between steps and in HALT, not in WAITKEY, where nothing changes (R255; log 13). -/
def State.load (s : State) (bytes : List Byte) : State :=
  match s.mode with
  | .run => s.loadImage bytes
  | .halt => s.loadImage bytes
  | .waitKey _ => s

/-- Reset, in any state (R250): every piece of the core's state to its reset value. The keys, which "the core does not reset"
(R253), the random source, the trace of outputs, the pending moves and the parameters are not the core's and stay (log 16). -/
def State.resetCore (s : State) : State :=
  { State.resetWith s.params with keys := s.keys, draws := s.draws, outputs := s.outputs, pending := s.pending }

/-- What an input does to the machine (R10). -/
def State.applyInput (s : State) : Input → State
  | .elapse units => s.elapse units
  | .key k down => s.setKey k down
  | .deliver k => s.deliver k
  | .load bytes => s.load bytes
  | .reset => s.resetCore

end Sys2Proof.Machine
end

