-- ==== Sys2Proof/Machine/Cycle.lean ====
section
/-! DEFINITION. The fetch-decode-execute step (R90 to R97), and placing a word where the next step fetches it. -/

namespace Sys2Proof.Machine

/-- The word `w` fetched at `addr` is decoded and run, PC already advanced; an unknown encoding is a diagnostic (R94, R95). -/
def runWord (s : State) (w addr : Word) : Host.Outcome State Fault Refusal :=
  match decode s.params.decodeMode w with
  | some i => exec i s
  | none => .next (s.diagUnknown w addr)

/-- One step in RUN: range check of the fetch, read of w, PC advance, decode, execute, in this order (R97). -/
def fetchAndRun (s : State) : Host.Outcome State Fault Refusal :=
  if s.fetchFaults then .next (s.raise .memoryOutOfRange) else runWord s.advancePc s.fetchWord s.pc

/-- A step request (R90): a step in RUN, no effect in HALT (R201), not accepted in WAITKEY (R90; log 13). -/
def requestStep (s : State) : Host.Outcome State Fault Refusal :=
  match s.mode with
  | .run => fetchAndRun s
  | .waitKey _ => .next s
  | .halt => .next s

/-- The pending moves are replaced (log 8). -/
def State.setPending (s : State) (l : List Move) : State := { s with pending := l }

/-- The next move of the machine: the first pending one, or a step request if none is pending (log 8). -/
def nextMove (s : State) : Host.Outcome State Fault Refusal :=
  match s.pending with
  | [] => requestStep s
  | .stepRequest :: rest => requestStep (s.setPending rest)
  | .input e :: rest => .next ((s.setPending rest).applyInput e)

/-- A state that fetches at PC on its next move: mode RUN, PC in range, a step request next. Log 15. -/
def State.readyToFetch (s : State) : State :=
  { s with
    mode := .run
    cause := .none
    pc := if s.fetchFaults then 0x200#16 else s.pc
    pending := match s.pending with
      | [] => []
      | l => .stepRequest :: l }

/-- The table word `w` stored big-endian at PC of a state that fetches there next (R52, R91; log 15). -/
def State.placeWord (s : State) (nbits w : Nat) : State :=
  State.writeBytes s.readyToFetch.pc.toNat (bytesOfWord (tableWord nbits w)) s.readyToFetch

end Sys2Proof.Machine
end

