-- ==== Sys2Proof/Machine/Step.lean ====
section
/-! DEFINITION. The step of the machine, and the host's way to place an instruction. -/

namespace Sys2Proof.Machine

/-- One move of the machine: the step request the spec calls a step (R90), or the input that is next in `pending`. -/
def step (s : State) : Host.Outcome State Fault Refusal := nextMove s

/-- `s` with the word stored where `step` fetches its next instruction. Log 15. -/
def State.withFetchWord (s : State) (nbits w : Nat) : State := s.placeWord nbits w

end Sys2Proof.Machine
end

