-- ==== Sys2Proof/Safety.lean ====
section
/-! DEFINITION. The terms claims are stated in: invariants of the machine, safe states, and frames. -/

namespace Sys2Proof.Machine

/-! ## Invariants -/

/-- `STACK` holds 0 to `STACK_DEPTH` entries (R20, R28). -/
def State.stackFits (s : State) : Prop := ∀ d, s.params.stackDepth = some d → s.stack.length ≤ d

/-- The invariant of the machine: the parameters are legal (R7), memory is in its canonical form, the stack is within its
capacity (R28), CAUSE is 0 exactly while MODE is not HALT (R38), and less than one sixtieth has passed since the last tick (R31). -/
structure State.Inv (s : State) : Prop where
  paramsWf : s.params.wellFormed = true
  memWf : Memory.wf s.params.font s.mem = true
  stackWf : s.stackFits
  causeWf : s.cause = .none ↔ s.mode ≠ .halt
  phaseWf : s.phase < s.params.unitsPerTick

/-- R27: PC never exceeds 0x10FE, and every return address is at most 0x1000. -/
structure State.PcBounded (s : State) : Prop where
  pcLe : s.pc.toNat ≤ 0x10FE
  stackLe : ∀ a ∈ s.stack, a.toNat ≤ 0x1000

/-- A good state of a run: the core has not halted (R201) and no unknown encoding was executed (R39, U13). -/
def State.Good (s : State) : Prop := s.mode ≠ .halt ∧ s.unk = false

/-! ## Frames -/

/-- What a transition may change. Every field left at its default is a field that stays. -/
structure Touch where
  /-- The registers that may change. -/
  regs : List RegIdx := []
  i : Bool := false
  pc : Bool := false
  stack : Bool := false
  /-- DT and its tick phase. -/
  dt : Bool := false
  st : Bool := false
  /-- The memory addresses that may change: `len` of them from `base` on. -/
  base : Nat := 0
  len : Nat := 0
  fb : Bool := false
  /-- MODE and CAUSE. -/
  mode : Bool := false
  unk : Bool := false
  keys : Bool := false
  draws : Bool := false
  outputs : Bool := false
  pending : Bool := false

/-- From `s` to `t`, everything stays but what `c` names. Memory is compared through the read of one byte; the parameters
never change. -/
structure Frame (c : Touch) (s t : State) : Prop where
  regs : ∀ r, r ∉ c.regs → t.reg r = s.reg r
  i : c.i = false → t.i = s.i
  pc : c.pc = false → t.pc = s.pc
  stack : c.stack = false → t.stack = s.stack
  dt : c.dt = false → t.dt = s.dt ∧ t.phase = s.phase
  st : c.st = false → t.st = s.st
  mem : ∀ a, ¬ (c.base ≤ a ∧ a < c.base + c.len) → t.byte a = s.byte a
  fb : c.fb = false → ∀ x y, t.pixel x y = s.pixel x y
  mode : c.mode = false → t.mode = s.mode ∧ t.cause = s.cause
  unk : c.unk = false → t.unk = s.unk
  keys : c.keys = false → t.keys = s.keys
  draws : c.draws = false → t.draws = s.draws
  outputs : c.outputs = false → t.outputs = s.outputs
  pending : c.pending = false → t.pending = s.pending
  params : t.params = s.params

/-- `t` is `s` halted with cause `c`, nothing else changed: what a fatal fault leaves (R200, R202). -/
def Halted (c : Cause) (s t : State) : Prop := t.mode = .halt ∧ t.cause = c ∧ Frame { mode := true } s t

/-- The access of an instruction to memory, as the base and the number of bytes from it; none for the other instructions (R53). -/
def memAccess (i : Instr) (s : State) : Option (Nat × Nat) :=
  match i with
  | .drw _ _ n => some (s.i.toNat, n.toNat)
  | .ldB _ => some (s.i.toNat, 3)
  | .ldMemVx x => some (s.i.toNat, x.toNat + 1)
  | .ldVxMem x => some (s.i.toNat, x.toNat + 1)
  | .cls | .ret | .jp _ | .call _ | .seImm _ _ | .sneImm _ _ | .seReg _ _ | .ldImm _ _ | .addImm _ _ => none
  | .ldReg _ _ | .orReg _ _ | .andReg _ _ | .xorReg _ _ | .addReg _ _ | .subReg _ _ | .shr _ _ | .subn _ _ | .shl _ => none
  | .sneReg _ _ | .ldI _ | .jpV0 _ | .rnd _ _ | .skp _ | .sknp _ => none
  | .ldVxDt _ | .ldVxK _ | .ldDtVx _ | .ldStVx _ | .addI _ | .ldF _ => none

/-- The bytes an instruction accesses all lie at 0xFFF or below; no bytes always do (R54). -/
def InRange (base n : Nat) : Prop := n = 0 ∨ base + n ≤ 0x1000

/-! ## Results of flag-writing instructions -/

/-- The result and the flag of an instruction that writes both (R120): with X not 15 each in its register, with X = 15 the
one that `VF_ORDER` writes last. -/
def ResultAndFlag (s t : State) (x : RegIdx) (result flag : Byte) : Prop :=
  (x ≠ VF → t.reg x = result ∧ t.reg VF = flag) ∧
  (x = VF → s.params.vfOrder = .flagLast → t.reg VF = flag) ∧
  (x = VF → s.params.vfOrder = .resultLast → t.reg VF = result)

/-- The seven instructions that write VF as a flag (R23). -/
def writesFlag : Instr → Bool
  | .addReg _ _ | .subReg _ _ | .shr _ _ | .subn _ _ | .shl _ | .addI _ | .drw _ _ _ => true
  | .cls | .ret | .jp _ | .call _ | .seImm _ _ | .sneImm _ _ | .seReg _ _ | .ldImm _ _ | .addImm _ _ => false
  | .ldReg _ _ | .orReg _ _ | .andReg _ _ | .xorReg _ _ | .sneReg _ _ | .ldI _ | .jpV0 _ | .rnd _ _ => false
  | .skp _ | .sknp _ | .ldVxDt _ | .ldVxK _ | .ldDtVx _ | .ldStVx _ | .ldF _ | .ldB _ | .ldMemVx _ | .ldVxMem _ => false

/-- The registers an instruction writes as ordinary destinations in its own step: VX, or V0 to VX of the bulk load. -/
def destinations : Instr → List RegIdx
  | .ldImm x _ | .addImm x _ | .ldReg x _ | .orReg x _ | .andReg x _ | .xorReg x _ => [x]
  | .addReg x _ | .subReg x _ | .shr x _ | .subn x _ | .shl x | .rnd x _ | .ldVxDt x => [x]
  | .ldVxMem x => (List.range (x.toNat + 1)).map fun k => BitVec.ofNat 4 k
  | .cls | .ret | .jp _ | .call _ | .seImm _ _ | .sneImm _ _ | .seReg _ _ | .sneReg _ _ | .ldI _ | .jpV0 _ => []
  | .drw _ _ _ | .skp _ | .sknp _ | .ldVxK _ | .ldDtVx _ | .ldStVx _ | .addI _ | .ldF _ | .ldB _ | .ldMemVx _ => []

/-! ## Drawing -/

/-- Some sprite bit of 1 of DRW VX, VY, N lands on pixel (p, q) (R141). -/
def SpriteCovers (s : State) (x y : RegIdx) (n : Nibble) (p : Fin 64) (q : Fin 32) : Prop :=
  ∃ row col, row < n.toNat ∧ col < 8 ∧ (s.byte (s.i.toNat + row)).getLsbD (7 - col) = true ∧
    ((s.reg x).toNat + col) % 64 = p.val ∧ ((s.reg y).toNat + row) % 32 = q.val

/-! ## The step's view -/

/-- The move after `s` is a step request, and `rest` is pending after it (log 8). -/
def RequestNext (s : State) (rest : List Move) : Prop :=
  (s.pending = [] ∧ rest = []) ∨ s.pending = .stepRequest :: rest

/-- `s` is in RUN and its next move is a step request: the next move is a step of R97. -/
def StepNext (s : State) (rest : List Move) : Prop := s.mode = .run ∧ RequestNext s rest

/-- The word at PC: `MEM[PC] * 256 + MEM[PC+1]` (R91). -/
def WordAt (s : State) (w : Word) : Prop := w.toNat = (s.byte s.pc.toNat).toNat * 256 + (s.byte (s.pc.toNat + 1)).toNat

/-- `s` as the execute phase finds it: PC advanced (R92), the step request taken. -/
def Executing (s : State) (rest : List Move) : State := { s with pc := s.pc + 2#16, pending := rest }

/-- KeyDown(k) (R152): k is at most 15 and key k is pressed. -/
def KeyDown (s : State) (k : Byte) : Prop := ∃ h : k.toNat < 16, s.keys[k.toNat] = true

end Sys2Proof.Machine
end

