-- ==== Sys2Proof/Certificates/Slice0/Obligations.lean ====
section
/-! DEFINITION. The statements about the model. -/

open Sys2Proof Sys2Proof.Machine

/-- CLS clears every pixel and changes nothing else (R100). -/
def Obligations.ClsClearsEveryPixel : Prop :=
  ∀ s : State, ∃ t, exec .cls s = .next t ∧ (∀ x y, t.pixel x y = false) ∧ Frame { fb := true } s t

/-- RET pops the newest entry into PC, or halts on an empty stack (R101, R30). -/
def Obligations.RetPopsNewestOrHalts : Prop :=
  ∀ s : State,
    (∀ a rest, s.stack = a :: rest →
      ∃ t, exec .ret s = .next t ∧ t.pc = a ∧ t.stack = rest ∧ Frame { pc := true, stack := true } s t) ∧
    (s.stack = [] → ∃ t, exec .ret s = .next t ∧ Halted .stackUnderflow s t)

/-- JP sets PC to NNN (R102). -/
def Obligations.JpSetsPc : Prop :=
  ∀ (s : State) (nnn : Addr12), ∃ t, exec (.jp nnn) s = .next t ∧ t.pc.toNat = nnn.toNat ∧ Frame { pc := true } s t

/-- CALL pushes the advanced PC and jumps, or halts on a full stack (R103, R29). -/
def Obligations.CallPushesAdvancedPcOrHalts : Prop :=
  ∀ (s : State) (nnn : Addr12), s.stackFits →
    ((∀ d, s.params.stackDepth = some d → s.stack.length ≠ d) →
      ∃ t, exec (.call nnn) s = .next t ∧ t.stack = s.pc :: s.stack ∧ t.pc.toNat = nnn.toNat ∧
        Frame { pc := true, stack := true } s t) ∧
    (∀ d, s.params.stackDepth = some d → s.stack.length = d →
      ∃ t, exec (.call nnn) s = .next t ∧ Halted .stackOverflow s t)

/-- SE VX,NN and SNE VX,NN skip on equality and on difference (R104, R105). -/
def Obligations.SkipsOnImmediate : Prop :=
  ∀ (s : State) (x : RegIdx) (nn : Byte),
    (∃ t, exec (.seImm x nn) s = .next t ∧
      t.pc.toNat = (if s.reg x = nn then (s.pc.toNat + 2) % 65536 else s.pc.toNat) ∧ Frame { pc := true } s t) ∧
    (∃ t, exec (.sneImm x nn) s = .next t ∧
      t.pc.toNat = (if s.reg x = nn then s.pc.toNat else (s.pc.toNat + 2) % 65536) ∧ Frame { pc := true } s t)

/-- SE VX,VY and SNE VX,VY skip on equality and on difference (R106, R107). -/
def Obligations.SkipsOnRegisters : Prop :=
  ∀ (s : State) (x y : RegIdx),
    (∃ t, exec (.seReg x y) s = .next t ∧
      t.pc.toNat = (if s.reg x = s.reg y then (s.pc.toNat + 2) % 65536 else s.pc.toNat) ∧ Frame { pc := true } s t) ∧
    (∃ t, exec (.sneReg x y) s = .next t ∧
      t.pc.toNat = (if s.reg x = s.reg y then s.pc.toNat else (s.pc.toNat + 2) % 65536) ∧ Frame { pc := true } s t)

/-- JP V0,NNN sets PC to NNN plus V0, not reduced to 12 bits (R108). -/
def Obligations.JpV0AddsRegisterZero : Prop :=
  ∀ (s : State) (nnn : Addr12), ∃ t, exec (.jpV0 nnn) s = .next t ∧
    t.pc.toNat = (nnn.toNat + (s.reg V0).toNat) % 65536 ∧ t.pc.toNat = nnn.toNat + (s.reg V0).toNat ∧
    t.pc.toNat ≤ 0x10FE ∧ Frame { pc := true } s t

/-- LD VX,NN stores NN; ADD VX,NN adds modulo 256 without a flag (R110, R111). -/
def Obligations.ImmediateLoadAndAdd : Prop :=
  ∀ (s : State) (x : RegIdx) (nn : Byte),
    (∃ t, exec (.ldImm x nn) s = .next t ∧ t.reg x = nn ∧ Frame { regs := [x] } s t) ∧
    (∃ t, exec (.addImm x nn) s = .next t ∧ (t.reg x).toNat = ((s.reg x).toNat + nn.toNat) % 256 ∧
      Frame { regs := [x] } s t)

/-- LD, OR, AND, XOR VX,VY compute bit by bit and leave VF alone (R121, R122, R123, R124). -/
def Obligations.CopyAndBitwiseOperations : Prop :=
  ∀ (s : State) (x y : RegIdx),
    (∃ t, exec (.ldReg x y) s = .next t ∧ t.reg x = s.reg y ∧ Frame { regs := [x] } s t) ∧
    (∃ t, exec (.orReg x y) s = .next t ∧
      (∀ k, (t.reg x).getLsbD k = ((s.reg x).getLsbD k || (s.reg y).getLsbD k)) ∧ Frame { regs := [x] } s t) ∧
    (∃ t, exec (.andReg x y) s = .next t ∧
      (∀ k, (t.reg x).getLsbD k = ((s.reg x).getLsbD k && (s.reg y).getLsbD k)) ∧ Frame { regs := [x] } s t) ∧
    (∃ t, exec (.xorReg x y) s = .next t ∧
      (∀ k, (t.reg x).getLsbD k = ((s.reg x).getLsbD k ^^ (s.reg y).getLsbD k)) ∧ Frame { regs := [x] } s t)

/-- ADD VX,VY: sum modulo 256, VF the carry (R125). -/
def Obligations.AddSetsCarry : Prop :=
  ∀ (s : State) (x y : RegIdx), ∃ t, exec (.addReg x y) s = .next t ∧
    ResultAndFlag s t x (BitVec.ofNat 8 (((s.reg x).toNat + (s.reg y).toNat) % 256))
      (if (s.reg x).toNat + (s.reg y).toNat > 255 then 1#8 else 0#8) ∧
    Frame { regs := [x, VF] } s t

/-- SUB VX,VY: the absolute difference, VF 0 on borrow (R126). -/
def Obligations.SubStoresAbsoluteDifference : Prop :=
  ∀ (s : State) (x y : RegIdx), ∃ t, exec (.subReg x y) s = .next t ∧
    ResultAndFlag s t x
      (BitVec.ofNat 8 (if (s.reg x).toNat < (s.reg y).toNat then (s.reg y).toNat - (s.reg x).toNat
        else (s.reg x).toNat - (s.reg y).toNat))
      (if (s.reg x).toNat < (s.reg y).toNat then 0#8 else 1#8) ∧
    Frame { regs := [x, VF] } s t

/-- SHR VX,VY: VY div 2 into VX, VF the old bit 0 of VX (R127). -/
def Obligations.ShrShiftsSourceFlagsDestination : Prop :=
  ∀ (s : State) (x y : RegIdx), ∃ t, exec (.shr x y) s = .next t ∧
    ResultAndFlag s t x (BitVec.ofNat 8 ((s.reg y).toNat / 2)) (BitVec.ofNat 8 ((s.reg x).toNat % 2)) ∧
    Frame { regs := [x, VF] } s t

/-- SUBN VX,VY: (VY - VX) mod 256, VF 1 only if VY > VX (R128). -/
def Obligations.SubnStoresReverseDifference : Prop :=
  ∀ (s : State) (x y : RegIdx), ∃ t, exec (.subn x y) s = .next t ∧
    ResultAndFlag s t x (BitVec.ofNat 8 ((256 + (s.reg y).toNat - (s.reg x).toNat) % 256))
      (if (s.reg y).toNat > (s.reg x).toNat then 1#8 else 0#8) ∧
    Frame { regs := [x, VF] } s t

/-- SHL VX: (2 VX) mod 256, VF the old bit 7 (R129). -/
def Obligations.ShlShiftsInPlace : Prop :=
  ∀ (s : State) (x : RegIdx), ∃ t, exec (.shl x) s = .next t ∧
    ResultAndFlag s t x (BitVec.ofNat 8 (2 * (s.reg x).toNat % 256)) (BitVec.ofNat 8 ((s.reg x).toNat / 128)) ∧
    Frame { regs := [x, VF] } s t

/-- LD I,NNN loads NNN zero-extended; LD F,VX loads the glyph address (R130, R132). -/
def Obligations.LdILoadsZeroExtended : Prop :=
  ∀ (s : State) (nnn : Addr12) (x : RegIdx),
    (∃ t, exec (.ldI nnn) s = .next t ∧ t.i.toNat = nnn.toNat ∧ Frame { i := true } s t) ∧
    (∃ t, exec (.ldF x) s = .next t ∧ t.i.toNat = (s.reg x).toNat % 16 * 5 ∧ Frame { i := true } s t)

/-- ADD I,VX: the sum modulo 65536, VF 1 if it exceeds 0xFFF (R131). -/
def Obligations.AddIWrapsAndFlagsAboveFff : Prop :=
  ∀ (s : State) (x : RegIdx), ∃ t, exec (.addI x) s = .next t ∧
    t.i.toNat = (s.i.toNat + (s.reg x).toNat) % 65536 ∧
    t.reg VF = (if s.i.toNat + (s.reg x).toNat > 0xFFF then 1#8 else 0#8) ∧
    Frame { i := true, regs := [VF] } s t

/-- RND VX,NN: the next free byte AND NN (the draw counter is the model's, log 11) (derived: 45_random.md, the rule of
RND, 92_eei_decisions.md D10). The free byte is `Config.randomByte s.draws`: the model's choice of form, log 11. -/
def Obligations.RndMasksTheFreeByte : Prop :=
  ∀ (s : State) (x : RegIdx) (nn : Byte), ∃ t, exec (.rnd x nn) s = .next t ∧
    t.reg x = Config.randomByte s.draws &&& nn ∧ t.draws = s.draws + 1 ∧
    (∀ k, nn.getLsbD k = false → (t.reg x).getLsbD k = false) ∧
    Frame { regs := [x], draws := true } s t

/-- DRW in range: each pixel a sprite bit lands on is flipped, VF says whether one was set (R140, R141, R142, R146). -/
def Obligations.DrwXorsSpriteIntoFramebuffer : Prop :=
  ∀ (s : State) (x y : RegIdx) (n : Nibble),
    (InRange s.i.toNat n.toNat → ∃ t, exec (.drw x y n) s = .next t ∧
      (∀ p q, t.pixel p q ≠ s.pixel p q ↔ SpriteCovers s x y n p q) ∧
      ((∃ p q, SpriteCovers s x y n p q ∧ s.pixel p q = true) → t.reg VF = 1#8) ∧
      ((∀ p q, SpriteCovers s x y n p q → s.pixel p q = false) → t.reg VF = 0#8) ∧
      t.outputs = .present :: s.outputs ∧
      Frame { regs := [VF], fb := true, outputs := true } s t) ∧
    (0 < n.toNat → s.i.toNat + n.toNat - 1 > 0xFFF →
      ∃ t, exec (.drw x y n) s = .next t ∧ Halted .memoryOutOfRange s t)

/-- DRW with N = 0 draws nothing, clears VF, presents once and never faults (derived: 46_draw.md section 2,
92_eei_decisions.md D20). The spec marks VF and Present of a draw of no rows as derived from the general rule. -/
def Obligations.DrwOfZeroRowsClearsVf : Prop :=
  ∀ (s : State) (x y : RegIdx), ∃ t, exec (.drw x y 0#4) s = .next t ∧ t.reg VF = 0#8 ∧
    t.outputs = .present :: s.outputs ∧ Frame { regs := [VF], outputs := true } s t

/-- The same sprite drawn twice leaves every pixel as it was, and VF reports a full erase (derived: 46_draw.md section 2,
95_test_vectors.md S4). -/
def Obligations.DrwTwiceRestoresThePicture : Prop :=
  ∀ (s : State) (x y : RegIdx) (n : Nibble), x ≠ VF → y ≠ VF → InRange s.i.toNat n.toNat →
    ∃ t u, exec (.drw x y n) s = .next t ∧ exec (.drw x y n) t = .next u ∧ (∀ p q, u.pixel p q = s.pixel p q) ∧
      ((∀ p q, s.pixel p q = false) → (∃ p q, SpriteCovers s x y n p q) → t.reg VF = 0#8 ∧ u.reg VF = 1#8)

/-- SKP skips if key VX is pressed, SKNP if it is not; an index above 15 is not pressed (R150, R151, R152). -/
def Obligations.KeySkipsAreOpposite : Prop :=
  ∀ (s : State) (x : RegIdx), ∃ t u, exec (.skp x) s = .next t ∧ exec (.sknp x) s = .next u ∧
    (KeyDown s (s.reg x) → t.pc.toNat = (s.pc.toNat + 2) % 65536 ∧ u.pc = s.pc) ∧
    (¬ KeyDown s (s.reg x) → t.pc = s.pc ∧ u.pc.toNat = (s.pc.toNat + 2) % 65536) ∧
    Frame { pc := true } s t ∧ Frame { pc := true } s u

/-- LD DT,VX sets the delay timer and restarts the tick phase (R163). -/
def Obligations.DelayTimerIsWritten : Prop :=
  ∀ (s : State) (x : RegIdx), ∃ t, exec (.ldDtVx x) s = .next t ∧ t.dt = s.reg x ∧ t.phase = 0 ∧ Frame { dt := true } s t

/-- LD VX,DT copies DT into VX (derived: 48_timer_misc.md section 1). -/
def Obligations.DelayTimerIsRead : Prop :=
  ∀ (s : State) (x : RegIdx), ∃ t, exec (.ldVxDt x) s = .next t ∧ t.reg x = s.dt ∧ Frame { regs := [x] } s t

/-- LD ST,VX sets ST; nothing else but reset changes ST, and no instruction reads it (R164). -/
def Obligations.SoundTimerIsStoredOnly : Prop :=
  (∀ (s : State) (x : RegIdx), ∃ t, exec (.ldStVx x) s = .next t ∧ t.st = s.reg x ∧ Frame { st := true } s t) ∧
  (∀ s t : State, step s = .next t → t.st ≠ s.st →
    (∃ rest x w, StepNext s rest ∧ s.pc.toNat ≤ 0xFFE ∧ WordAt s w ∧ decode s.params.decodeMode w = some (.ldStVx x)) ∨
    (∃ rest, s.pending = .input .reset :: rest)) ∧
  (∀ (s : State) (e : Input), e ≠ .reset → (s.applyInput e).st = s.st) ∧
  (∀ (i : Instr) (s t : State) (a : Byte), (∀ x, i ≠ .ldStVx x) → exec i s = .next t →
    t.st = s.st ∧ exec i { s with st := a } = .next { t with st := a }) ∧
  (∀ (x : RegIdx) (s : State) (a : Byte), exec (.ldStVx x) { s with st := a } = exec (.ldStVx x) s)

/-- After FX15 of v and any passage of time, FX07 reads max(0, v - whole sixtieths elapsed) (derived: 60_exceptions.md
section 4, 10_state.md section 6, 92_eei_decisions.md D8). The representation of time is the model's choice, log 9. -/
def Obligations.DelayTimerReadAfterElapsedTime : Prop :=
  ∀ (s t : State) (x y : RegIdx) (times : List Nat), s.params.wellFormed = true → exec (.ldDtVx x) s = .next t →
    ∃ u, exec (.ldVxDt y) (times.foldl State.elapse t) = .next u ∧
      (u.reg y).toNat = (s.reg x).toNat - times.sum / s.params.unitsPerTick

/-- A tick decrements a non-zero DT and changes nothing else (derived: 60_exceptions.md section 4). -/
def Obligations.TickCountsDownToZero : Prop :=
  ∀ s : State, (0 < s.dt.toNat → s.tick.dt.toNat = s.dt.toNat - 1) ∧ (s.dt = 0#8 → s.tick.dt = 0#8) ∧
    Frame { dt := true } s s.tick ∧ s.tick.phase = s.phase

/-- A time of n sixtieths is exactly n ticks from any phase, in every mode (derived: 60_exceptions.md section 4,
70_reset_and_hazards.md section 5). The representation of time is the model's choice, log 9. -/
def Obligations.SixtyTicksASecond : Prop :=
  ∀ (s : State) (n : Nat) (rest : List Move), s.Inv →
    s.pending = .input (.elapse (n * s.params.unitsPerTick)) :: rest →
    ∃ t, step s = .next t ∧ t.dt.toNat = s.dt.toNat - n ∧ t.phase = s.phase ∧ t.pending = rest ∧
      Frame { dt := true, pending := true } s t

/-- DT never increases but by FX15 (derived: 70_reset_and_hazards.md section 5). -/
def Obligations.DelayTimerNeverIncreases : Prop :=
  ∀ s t : State, step s = .next t → s.dt.toNat < t.dt.toNat →
    ∃ rest x w, StepNext s rest ∧ WordAt s w ∧ decode s.params.decodeMode w = some (.ldDtVx x)

/-- LD VX,K suspends the step in WAITKEY(X); a key delivered then is stored in VX and the core runs on (derived:
48_timer_misc.md section 1, 60_exceptions.md section 6). -/
def Obligations.KeyWaitSuspendsAndCompletes : Prop :=
  (∀ (s : State) (x : RegIdx), ∃ t, exec (.ldVxK x) s = .next t ∧ t.mode = .waitKey x ∧ t.cause = s.cause ∧
    Frame { mode := true } s t) ∧
  (∀ (s : State) (x : RegIdx) (k : Fin 16) (rest : List Move), s.mode = .waitKey x →
    s.pending = .input (.deliver k) :: rest →
    ∃ t, step s = .next t ∧ (t.reg x).toNat = k.val ∧ t.mode = .run ∧ t.cause = s.cause ∧ t.pending = rest ∧
      Frame { regs := [x], mode := true, pending := true } s t)

/-- In WAITKEY nothing but DT and the keys changes until a key is delivered or reset comes (derived: 48_timer_misc.md
section 1, 40_step.md section 1, 70_reset_and_hazards.md section 2). That a move the spec does not accept changes nothing
is the model's choice, log 13. -/
def Obligations.KeyWaitEndsOnlyByKeyOrReset : Prop :=
  ∀ (s t : State) (x : RegIdx), s.mode = .waitKey x → step s = .next t →
    (∀ k rest, s.pending ≠ .input (.deliver k) :: rest) → (∀ rest, s.pending ≠ .input .reset :: rest) →
    t.mode = .waitKey x ∧ Frame { dt := true, keys := true, pending := true } s t ∧
    (∀ rest, RequestNext s rest → Frame { pending := true } s t) ∧
    (∀ bytes rest, s.pending = .input (.load bytes) :: rest → Frame { pending := true } s t)

/-- LD B,VX stores hundreds, tens and ones at I, I+1, I+2, or faults (R165). -/
def Obligations.BcdStoresThreeDigits : Prop :=
  ∀ (s : State) (x : RegIdx), Memory.wf s.params.font s.mem = true →
    (s.i.toNat + 2 ≤ 0xFFF → ∃ t, exec (.ldB x) s = .next t ∧
      (t.byte s.i.toNat).toNat = (s.reg x).toNat / 100 ∧
      (t.byte (s.i.toNat + 1)).toNat = (s.reg x).toNat / 10 % 10 ∧
      (t.byte (s.i.toNat + 2)).toNat = (s.reg x).toNat % 10 ∧
      Frame { base := s.i.toNat, len := 3 } s t) ∧
    (s.i.toNat + 2 > 0xFFF → ∃ t, exec (.ldB x) s = .next t ∧ Halted .memoryOutOfRange s t)

/-- LD [I],VX stores V0 to VX from I on, or faults (R166). -/
def Obligations.BulkStoreWritesRegisters : Prop :=
  ∀ (s : State) (x : RegIdx), Memory.wf s.params.font s.mem = true →
    (s.i.toNat + x.toNat ≤ 0xFFF → ∃ t, exec (.ldMemVx x) s = .next t ∧
      (∀ r : RegIdx, r.toNat ≤ x.toNat → t.byte (s.i.toNat + r.toNat) = s.reg r) ∧
      Frame { base := s.i.toNat, len := x.toNat + 1 } s t) ∧
    (s.i.toNat + x.toNat > 0xFFF → ∃ t, exec (.ldMemVx x) s = .next t ∧ Halted .memoryOutOfRange s t)

/-- LD VX,[I] loads V0 to VX from I on, or faults (R167). -/
def Obligations.BulkLoadReadsMemory : Prop :=
  ∀ (s : State) (x : RegIdx),
    (s.i.toNat + x.toNat ≤ 0xFFF → ∃ t, exec (.ldVxMem x) s = .next t ∧
      (∀ r : RegIdx, r.toNat ≤ x.toNat → t.reg r = s.byte (s.i.toNat + r.toNat)) ∧
      Frame { regs := destinations (.ldVxMem x) } s t) ∧
    (s.i.toNat + x.toNat > 0xFFF → ∃ t, exec (.ldVxMem x) s = .next t ∧ Halted .memoryOutOfRange s t)

/-- A bulk store, any change of the registers, and a bulk load reproduce V0 to VX (derived: 48_timer_misc.md section 2,
95_test_vectors.md S6). -/
def Obligations.BulkStoreThenLoadRestoresRegisters : Prop :=
  ∀ (s : State) (x : RegIdx) (v : Vector Byte 16), Memory.wf s.params.font s.mem = true → s.i.toNat + x.toNat ≤ 0xFFF →
    ∃ t u, exec (.ldMemVx x) s = .next t ∧ exec (.ldVxMem x) { t with v := v } = .next u ∧
      (∀ r : RegIdx, r.toNat ≤ x.toNat → u.reg r = s.reg r) ∧ t.i = s.i ∧ u.i = s.i

/-- No instruction and no step of the model is refused or ends in a fault outcome (derived: 40_step.md section 4,
60_exceptions.md section 1). A fatal fault is a next state, the halt state, log 7. -/
def Obligations.EveryInstructionAndStepAnswersNext : Prop :=
  (∀ (i : Instr) (s : State), ∃ t, exec i s = .next t) ∧ (∀ s : State, ∃ t, step s = .next t)

/-- Exactly RET on an empty stack, CALL on a full one and the four memory instructions out of range halt (derived:
60_exceptions.md section 1). -/
def Obligations.FatalFaultsExactly : Prop :=
  ∀ (i : Instr) (s t : State), s.mode = .run → exec i s = .next t →
    (t.mode = .halt ∧ t.cause = .stackUnderflow ↔ i = .ret ∧ s.stack = []) ∧
    (t.mode = .halt ∧ t.cause = .stackOverflow ↔
      (∃ nnn, i = .call nnn) ∧ ∃ d, s.params.stackDepth = some d ∧ d ≤ s.stack.length) ∧
    (t.mode = .halt ∧ t.cause = .memoryOutOfRange ↔
      ∃ base n, memAccess i s = some (base, n) ∧ 0 < n ∧ 0xFFF < base + n - 1) ∧
    (t.mode = .halt → t.cause ≠ .none)

/-- A faulting instruction changes nothing but MODE and CAUSE (R202). -/
def Obligations.FatalFaultsArePrecise : Prop :=
  (∀ (i : Instr) (s t : State), s.mode = .run → exec i s = .next t → t.mode = .halt →
    ∃ c, c ≠ .none ∧ Halted c s t) ∧
  (∀ (s : State) (rest : List Move), StepNext s rest → 0xFFE < s.pc.toNat →
    ∃ t, step s = .next t ∧ t.mode = .halt ∧ t.cause = .memoryOutOfRange ∧ t.pending = rest ∧
      Frame { mode := true, pending := true } s t)

/-- Only seven instructions write VF as a flag; every other changes no register but its destinations (derived: 10_state.md
section 2). -/
def Obligations.VfIsWrittenByNoOther : Prop :=
  ∀ (i : Instr) (s t : State), exec i s = .next t →
    (∀ r, r ∉ destinations i → (r = VF → writesFlag i = false) → t.reg r = s.reg r) ∧
    (writesFlag i = true → s.mode = .run → t.mode = .run → (VF ∈ destinations i → s.params.vfOrder = .flagLast) →
      t.reg VF = 0#8 ∨ t.reg VF = 1#8)

/-- Which instructions write the stack, the framebuffer, memory, I, DT, PC and the output events (derived: 10_state.md
sections 3 to 8, 10_state.md section 9, 10_state.md section 10, 60_exceptions.md section 5). The trace of output events is
the model's choice of form, log 12, and so are the pending moves, log 8, and the parameters in the state, log 1. -/
def Obligations.WhichInstructionsWriteWhat : Prop :=
  ∀ (i : Instr) (s t : State), exec i s = .next t →
    (i ≠ .ret → (∀ nnn, i ≠ .call nnn) → t.stack = s.stack) ∧
    (i ≠ .cls → (∀ x y n, i ≠ .drw x y n) → ∀ p q, t.pixel p q = s.pixel p q) ∧
    ((∀ x, i ≠ .ldB x) → (∀ x, i ≠ .ldMemVx x) → ∀ a, t.byte a = s.byte a) ∧
    ((∀ nnn, i ≠ .ldI nnn) → (∀ x, i ≠ .addI x) → (∀ x, i ≠ .ldF x) → t.i = s.i) ∧
    ((∀ x, i ≠ .ldDtVx x) → t.dt = s.dt ∧ t.phase = s.phase) ∧
    (i ≠ .ret → (∀ n, i ≠ .jp n) → (∀ n, i ≠ .call n) → (∀ n, i ≠ .jpV0 n) → (∀ x n, i ≠ .seImm x n) →
      (∀ x n, i ≠ .sneImm x n) → (∀ x y, i ≠ .seReg x y) → (∀ x y, i ≠ .sneReg x y) → (∀ x, i ≠ .skp x) →
      (∀ x, i ≠ .sknp x) → t.pc = s.pc) ∧
    ((∀ x y n, i ≠ .drw x y n) → t.outputs = s.outputs) ∧
    t.unk = s.unk ∧ t.keys = s.keys ∧ t.pending = s.pending ∧ t.params = s.params

/-- A step in RUN fetches at PC, advances PC by 2, then runs the decoded instruction or the diagnostic (R91, R92). -/
def Obligations.StepRunsTheDecodedInstruction : Prop :=
  ∀ (s : State) (rest : List Move), StepNext s rest →
    (∀ (w : Word), s.pc.toNat ≤ 0xFFE → WordAt s w →
      (∀ i, decode s.params.decodeMode w = some i → step s = exec i (Executing s rest)) ∧
      (decode s.params.decodeMode w = none → step s = .next ((Executing s rest).diagUnknown w s.pc))) ∧
    (0xFFE < s.pc.toNat → ∃ t, step s = .next t ∧ Halted .memoryOutOfRange { s with pending := rest } t)

/-- An unknown encoding sets UNK, emits one diagnostic and advances PC (R95, R204). -/
def Obligations.UnknownEncodingIsDiagnosticNoOp : Prop :=
  ∀ (s : State) (rest : List Move) (w : Word), StepNext s rest → s.pc.toNat ≤ 0xFFE → WordAt s w →
    decode s.params.decodeMode w = none →
    ∃ t, step s = .next t ∧ t.unk = true ∧ t.outputs = .unknownOpcode w s.pc :: s.outputs ∧
      t.pc.toNat = (s.pc.toNat + 2) % 65536 ∧ t.mode = .run ∧ t.pending = rest ∧
      Frame { unk := true, outputs := true, pc := true, pending := true } s t

/-- A step completes, is suspended by FX0A, or halts; a halt and a diagnostic never coincide (derived: 40_step.md section
4). -/
def Obligations.StepEndsInOneOfThreeWays : Prop :=
  ∀ (s : State) (rest : List Move), StepNext s rest → ∃ t, step s = .next t ∧
    (t.mode = .run ∨
      (∃ x w, WordAt s w ∧ decode s.params.decodeMode w = some (.ldVxK x) ∧ t.mode = .waitKey x ∧ t.pc = s.pc + 2#16) ∨
      (t.mode = .halt ∧ t.cause ≠ .none)) ∧
    (t.mode = .halt → t.unk = s.unk ∧ t.outputs = s.outputs)

/-- In HALT a step request changes nothing; ticks count, a load is accepted, only reset leaves HALT (R201). -/
def Obligations.HaltIsLeftByResetOnly : Prop :=
  ∀ s : State, s.mode = .halt →
    (∀ rest, RequestNext s rest → step s = .next { s with pending := rest }) ∧
    (0 < s.dt.toNat → s.tick.dt.toNat = s.dt.toNat - 1 ∧ s.tick.mode = .halt) ∧
    (∀ bytes rest, s.pending = .input (.load bytes) :: rest → bytes.length ≤ 3584 →
      Memory.wf s.params.font s.mem = true →
      ∃ t, step s = .next t ∧ ∀ k (h : k < bytes.length), t.byte (0x200 + k) = bytes[k]) ∧
    (∀ t, step s = .next t → (∀ rest, s.pending ≠ .input .reset :: rest) → t.mode = .halt ∧ t.cause = s.cause)

/-- UNK is set by unknown encodings only, cleared by reset only, and read by no instruction (R39). -/
def Obligations.UnkRecordsUnknownEncodings : Prop :=
  (∀ s t : State, step s = .next t →
    (t.unk = true ↔
      (s.unk = true ∧ ∀ rest, s.pending ≠ .input .reset :: rest) ∨
      (∃ rest w, StepNext s rest ∧ s.pc.toNat ≤ 0xFFE ∧ WordAt s w ∧ decode s.params.decodeMode w = none))) ∧
  (∀ (i : Instr) (s t : State) (b : Bool), exec i s = .next t → exec i { s with unk := b } = .next { t with unk := b })

/-- Time changes DT only, a key change the keys only; neither input touches the framebuffer or memory (derived:
60_exceptions.md section 6, 60_exceptions.md section 4). That a key delivery outside WAITKEY changes nothing is the
model's choice, log 13. -/
def Obligations.InputsChangeOnlyTheirOwnState : Prop :=
  ∀ s : State,
    (∀ u, Frame { dt := true } s (s.applyInput (.elapse u))) ∧
    (∀ k down, (s.applyInput (.key k down)).keys[k] = down ∧
      (∀ j : Fin 16, j ≠ k → (s.applyInput (.key k down)).keys[j] = s.keys[j]) ∧
      Frame { keys := true } s (s.applyInput (.key k down))) ∧
    (∀ k, (∀ x, s.mode ≠ .waitKey x) → s.applyInput (.deliver k) = s)

/-- A bulk store over the next instruction is what the next step fetches (derived: 20_memory.md section 8). -/
def Obligations.StoredBytesAreFetchedNext : Prop :=
  ∀ (s : State) (rest : List Move) (w : Word) (x : RegIdx), StepNext s rest → s.pc.toNat ≤ 0xFFE → WordAt s w →
    decode s.params.decodeMode w = some (.ldMemVx x) → 1 ≤ x.toNat → s.i = s.pc + 2#16 →
    s.i.toNat + x.toNat ≤ 0xFFF → Memory.wf s.params.font s.mem = true →
    ∃ t, step s = .next t ∧ t.mode = .run ∧ t.pc = s.pc + 2#16 ∧
      ∀ w', WordAt t w' → w'.toNat = (s.reg 0#4).toNat * 256 + (s.reg 1#4).toNat

/-- A jump to its own address is a step that changes nothing (derived: 70_reset_and_hazards.md section 6). -/
def Obligations.JumpToSelfChangesNothing : Prop :=
  ∀ (s : State) (w : Word) (nnn : Addr12), s.mode = .run → s.pending = [] → s.pc.toNat ≤ 0xFFE → WordAt s w →
    decode s.params.decodeMode w = some (.jp nnn) → nnn.toNat = s.pc.toNat → step s = .next s

/-- State.reset holds the values of the reset table (R41). -/
def Obligations.ResetValues : Prop :=
  (∀ r, State.reset.reg r = 0#8) ∧ State.reset.i = 0#16 ∧ State.reset.pc = 0x200#16 ∧ State.reset.stack = [] ∧
  State.reset.dt = 0#8 ∧ State.reset.phase = 0 ∧ State.reset.st = 0#8 ∧
  (∀ a (h : a < 80), State.reset.byte a = defaultFont[a]) ∧ (∀ a, 0x050 ≤ a → a ≤ 0xFFF → State.reset.byte a = 0#8) ∧
  (∀ x y, State.reset.pixel x y = false) ∧ State.reset.mode = .run ∧ State.reset.cause.code = 0 ∧ State.reset.unk = false

/-- Reset in any state gives every piece of the core's state its reset value (R250). -/
def Obligations.ResetFromAnyState : Prop :=
  ∀ (s : State) (rest : List Move), s.pending = .input .reset :: rest → ∃ t, step s = .next t ∧
    (∀ r, t.reg r = 0#8) ∧ t.i = 0#16 ∧ t.pc = 0x200#16 ∧ t.stack = [] ∧ t.dt = 0#8 ∧ t.phase = 0 ∧ t.st = 0#8 ∧
    (∀ a (h : a < 80), t.byte a = s.params.font[a]) ∧ (∀ a, 0x050 ≤ a → a ≤ 0xFFF → t.byte a = 0#8) ∧
    (∀ (x : Fin 64) (y : Fin 32), t.pixel x y = fbPixel s.params.fbReset x y) ∧
    t.mode = .run ∧ t.cause = .none ∧ t.unk = false

/-- A load places an image of at most 3584 bytes at 0x200; a larger one answers ImageTooLarge (derived:
70_reset_and_hazards.md section 2, 92_eei_decisions.md D18). That a load in WAITKEY, which is not accepted, changes
nothing of the core is the model's choice, log 13. -/
def Obligations.LoadPlacesTheImage : Prop :=
  ∀ (s : State) (bytes : List Byte) (rest : List Move), Memory.wf s.params.font s.mem = true →
    s.pending = .input (.load bytes) :: rest → ∃ t, step s = .next t ∧ t.pending = rest ∧
      ((∀ x, s.mode ≠ .waitKey x) → 3584 < bytes.length →
        t.outputs = .imageTooLarge :: s.outputs ∧ Frame { outputs := true, pending := true } s t) ∧
      ((∀ x, s.mode ≠ .waitKey x) → bytes.length ≤ 3584 →
        (∀ k (h : k < bytes.length), t.byte (0x200 + k) = bytes[k]) ∧
        Frame { base := 0x200, len := bytes.length, pending := true } s t) ∧
      (∀ x, s.mode = .waitKey x → Frame { outputs := true, pending := true } s t)

/-- Decoding the encoding of any instruction gives it back, under strict and lax (derived: 30_encoding.md section 4). -/
def Obligations.DecodeInvertsEncode : Prop :=
  ∀ (m : DecodeMode) (i : Instr) (rest : List Byte), i.wellFormed = true →
    decode m (encode i) = some i ∧ decodeBytes m (encodeBytes i ++ rest) = .ok (i, rest)

/-- Strict decoding finds an instruction exactly if a row of the opcode map is selected, and then that row (R75). -/
def Obligations.DecodeFollowsTheOpcodeMap : Prop :=
  opcodeMap.length = 34 ∧
  ∀ w : Word,
    ((decode .strict w).isSome = true ↔ ∃ r ∈ opcodeMap, w &&& r.mask = r.value) ∧
    (∀ i, decode .strict w = some i → i.row ∈ opcodeMap ∧ w &&& i.row.mask = i.row.value) ∧
    (∀ r ∈ opcodeMap, ∀ r' ∈ opcodeMap, w &&& r.mask = r.value → w &&& r'.mask = r'.value → r = r')

/-- A word that decodes strictly is the encoding of its instruction, but for the ignored Y of SHL (derived: 30_encoding.md
section 4). That the encoder writes the ignored Y bits of SHL as 0 is the model's choice, log 17. -/
def Obligations.EncodeInvertsDecode : Prop :=
  ∀ (w : Word) (i : Instr), decode .strict w = some i →
    encode i = w ∨ ((∃ x, i = .shl x) ∧ encode i = w &&& 0xFF0F#16)

/-- Lax decoding agrees with strict where strict decodes, and adds families 0, 5 and 9 (derived: 30_encoding.md section
5). -/
def Obligations.LaxDecodingExtendsStrict : Prop :=
  ∀ w : Word,
    (∀ i, decode .strict w = some i → decode .lax w = some i) ∧
    (decode .strict w = none → decode .lax w =
      if w.toNat / 4096 = 0 ∧ w.toNat % 256 = 0xE0 then some .cls
      else if w.toNat / 4096 = 0 ∧ w.toNat % 256 = 0xEE then some .ret
      else if w.toNat / 4096 = 5 then some (.seReg (BitVec.ofNat 4 (w.toNat / 256)) (BitVec.ofNat 4 (w.toNat / 16)))
      else if w.toNat / 4096 = 9 then some (.sneReg (BitVec.ofNat 4 (w.toNat / 256)) (BitVec.ofNat 4 (w.toNat / 16)))
      else none)

/-- Words written out from the opcode map decode to their instructions (derived: 30_encoding.md section 4,
95_test_vectors.md Part 2). -/
def Obligations.SampleWordsDecode : Prop :=
  decode .strict 0x00EE#16 = some .ret ∧ decode .strict 0x1ABC#16 = some (.jp 0xABC#12) ∧
  decode .strict 0x2300#16 = some (.call 0x300#12) ∧ decode .strict 0x3342#16 = some (.seImm 3#4 0x42#8) ∧
  decode .strict 0x4519#16 = some (.sneImm 5#4 0x19#8) ∧ decode .strict 0x5120#16 = some (.seReg 1#4 2#4) ∧
  decode .strict 0x6A7F#16 = some (.ldImm 0xA#4 0x7F#8) ∧ decode .strict 0x9340#16 = some (.sneReg 3#4 4#4) ∧
  decode .strict 0xA2F0#16 = some (.ldI 0x2F0#12) ∧ decode .strict 0xBFED#16 = some (.jpV0 0xFED#12) ∧
  decode .strict 0x7103#16 = some (.addImm 1#4 0x03#8) ∧ decode .strict 0x8326#16 = some (.shr 3#4 2#4) ∧
  decode .strict 0x8327#16 = some (.subn 3#4 2#4) ∧ decode .strict 0xF21E#16 = some (.addI 2#4) ∧
  decode .strict 0xC30F#16 = some (.rnd 3#4 0x0F#8) ∧ decode .strict 0xD012#16 = some (.drw 0#4 1#4 2#4) ∧
  decode .strict 0xE59E#16 = some (.skp 5#4) ∧ decode .strict 0xF355#16 = some (.ldMemVx 3#4) ∧
  decode .strict 0x5121#16 = none ∧ decode .strict 0x8128#16 = none ∧ decode .strict 0xE100#16 = none ∧
  decode .strict 0xF100#16 = none ∧ decode .strict 0x00E1#16 = none

/-- Every step keeps the invariant of the machine and its parameters (derived: 10_state.md section 1, 10_state.md section
9, 20_memory.md section 5). The unit of the tick phase and the canonical form of memory are the model's choices, log 3 and
log 9. -/
def Obligations.StepKeepsTheInvariant : Prop :=
  ∀ s t : State, s.Inv → step s = .next t → t.Inv ∧ t.params = s.params

/-- State.reset, and reset under any legal parameters, has both invariants (derived: 10_state.md section 11). -/
def Obligations.ResetHasTheInvariants : Prop :=
  State.reset.Inv ∧ State.reset.PcBounded ∧
  ∀ p : Params, p.wellFormed = true → (State.resetWith p).Inv ∧ (State.resetWith p).PcBounded

/-- PC never exceeds 0x10FE and return addresses never exceed 0x1000 (derived: 10_state.md section 4). The spec marks this
bound as its own inference (10_state.md section 4). -/
def Obligations.PcStaysBounded : Prop :=
  ∀ s t : State, s.PcBounded → step s = .next t → t.PcBounded

/-- Two canonical memories that read alike are equal (the model's form of memory, log 3) (derived: 10_state.md section 8).
The canonical form is the model's choice, log 3. -/
def Obligations.CanonicalMemoryIsUnique : Prop :=
  ∀ (font : Font) (m m' : Memory), Memory.wf font m = true → Memory.wf font m' = true →
    (∀ a, Memory.read font m a = Memory.read font m' a) → m = m'
end

