-- ==== Sys2Proof/Laws/Decode.lean ====
section
/-! SUPPORT. The fields of a packed word, and the bytes of a word. -/

namespace Sys2Proof

/-- Concatenation as a number, the left part in the high bits (R11). -/
theorem toNat_concat {m n : Nat} (a : BitVec m) (b : BitVec n) : (a ++ b).toNat = a.toNat * 2 ^ n + b.toNat := by
  rw [BitVec.toNat_append, ← Nat.shiftLeft_add_eq_or_of_lt b.isLt, Nat.shiftLeft_eq]

theorem packA_toNat (f : Nibble) (a : Addr12) : (packA f a).toNat = f.toNat * 4096 + a.toNat := toNat_concat f a

theorem packXI_toNat (f x : Nibble) (nn : Byte) : (packXI f x nn).toNat = (f.toNat * 16 + x.toNat) * 256 + nn.toNat :=
  (toNat_concat (f ++ x) nn).trans (congrArg (· * 256 + nn.toNat) (toNat_concat f x))

theorem packXY_toNat (f x y d : Nibble) :
    (packXY f x y d).toNat = ((f.toNat * 16 + x.toNat) * 16 + y.toNat) * 16 + d.toNat :=
  (toNat_concat (f ++ x ++ y) d).trans (congrArg (· * 16 + d.toNat)
    ((toNat_concat (f ++ x) y).trans (congrArg (· * 16 + y.toNat) (toNat_concat f x))))

@[simp] theorem fieldF_packA (f : Nibble) (a : Addr12) : fieldF (packA f a) = f := by
  apply BitVec.eq_of_toNat_eq
  simp only [fieldF, BitVec.extractLsb'_toNat, packA_toNat, Nat.shiftRight_eq_div_pow]
  omega

@[simp] theorem fieldNNN_packA (f : Nibble) (a : Addr12) : fieldNNN (packA f a) = a := by
  apply BitVec.eq_of_toNat_eq
  simp only [fieldNNN, BitVec.extractLsb'_toNat, packA_toNat, Nat.shiftRight_eq_div_pow]
  omega

@[simp] theorem fieldF_packXI (f x : Nibble) (nn : Byte) : fieldF (packXI f x nn) = f := by
  apply BitVec.eq_of_toNat_eq
  simp only [fieldF, BitVec.extractLsb'_toNat, packXI_toNat, Nat.shiftRight_eq_div_pow]
  omega

@[simp] theorem fieldX_packXI (f x : Nibble) (nn : Byte) : fieldX (packXI f x nn) = x := by
  apply BitVec.eq_of_toNat_eq
  simp only [fieldX, BitVec.extractLsb'_toNat, packXI_toNat, Nat.shiftRight_eq_div_pow]
  omega

@[simp] theorem fieldNN_packXI (f x : Nibble) (nn : Byte) : fieldNN (packXI f x nn) = nn := by
  apply BitVec.eq_of_toNat_eq
  simp only [fieldNN, BitVec.extractLsb'_toNat, packXI_toNat, Nat.shiftRight_eq_div_pow]
  omega

@[simp] theorem fieldF_packXY (f x y d : Nibble) : fieldF (packXY f x y d) = f := by
  apply BitVec.eq_of_toNat_eq
  simp only [fieldF, BitVec.extractLsb'_toNat, packXY_toNat, Nat.shiftRight_eq_div_pow]
  omega

@[simp] theorem fieldX_packXY (f x y d : Nibble) : fieldX (packXY f x y d) = x := by
  apply BitVec.eq_of_toNat_eq
  simp only [fieldX, BitVec.extractLsb'_toNat, packXY_toNat, Nat.shiftRight_eq_div_pow]
  omega

@[simp] theorem fieldY_packXY (f x y d : Nibble) : fieldY (packXY f x y d) = y := by
  apply BitVec.eq_of_toNat_eq
  simp only [fieldY, BitVec.extractLsb'_toNat, packXY_toNat, Nat.shiftRight_eq_div_pow]
  omega

@[simp] theorem fieldD_packXY (f x y d : Nibble) : fieldD (packXY f x y d) = d := by
  apply BitVec.eq_of_toNat_eq
  simp only [fieldD, BitVec.extractLsb'_toNat, packXY_toNat, Nat.shiftRight_eq_div_pow]
  omega

/-- The bytes of a word put together again are the word (R52). -/
theorem wordOfBytes_bytesOfWord (w : Word) : wordOfBytes (w.extractLsb' 8 8) (w.extractLsb' 0 8) = w := by
  apply BitVec.eq_of_toNat_eq
  refine (toNat_concat _ _).trans ?_
  simp only [BitVec.extractLsb'_toNat, Nat.shiftRight_eq_div_pow]
  omega

end Sys2Proof
end

