-- ==== Sys2Proof/Laws/Memory.lean ====
section
/-! SUPPORT. The laws of memory: a read after a write, and the canonical form. -/

namespace Sys2Proof.Machine

variable (font : Font)

@[simp] theorem Memory.read_nil (a : Nat) : Memory.read font [] a = unlisted font a := rfl

theorem Memory.read_cons (b : Nat) (u : Byte) (m : Memory) (a : Nat) :
    Memory.read font ((b, u) :: m) a = if a = b then u else Memory.read font m a := rfl

/-- A cell in front is what its own address reads as, if the rest says nothing of that address. -/
theorem Memory.read_consCell_self (a : Nat) (v : Byte) (m : Memory) (h : Memory.read font m a = unlisted font a) :
    Memory.read font (Memory.cons font a v m) a = v := by
  unfold Memory.cons
  split
  · simp_all
  · simp [Memory.read_cons]

theorem Memory.read_consCell_of_ne (a b : Nat) (v : Byte) (m : Memory) (h : b ≠ a) :
    Memory.read font (Memory.cons font a v m) b = Memory.read font m b := by
  unfold Memory.cons
  split
  · rfl
  · simp [Memory.read_cons, h]

/-- An address below the first one a canonical memory may list reads as unlisted. -/
theorem Memory.read_of_lt {lo a : Nat} {m : Memory} (hm : Memory.wfFrom font lo m = true) (h : a < lo) :
    Memory.read font m a = unlisted font a := by
  induction m generalizing lo with
  | nil => rfl
  | cons c m ih =>
    obtain ⟨b, u⟩ := c
    simp only [Memory.wfFrom, Bool.and_eq_true, decide_eq_true_eq] at hm
    rw [Memory.read_cons, if_neg (by omega)]
    exact ih hm.2 (by omega)

theorem Memory.wfFrom_mono {lo lo' : Nat} {m : Memory} (hm : Memory.wfFrom font lo m = true) (h : lo' ≤ lo) :
    Memory.wfFrom font lo' m = true := by
  cases m with
  | nil => rfl
  | cons c m =>
    simp only [Memory.wfFrom, Bool.and_eq_true, decide_eq_true_eq] at hm ⊢
    exact ⟨⟨⟨by omega, hm.1.1.2⟩, hm.1.2⟩, hm.2⟩

theorem Memory.wfFrom_consCell {lo a : Nat} {v : Byte} {m : Memory} (hm : Memory.wfFrom font (a + 1) m = true)
    (hlo : lo ≤ a) (ha : a < Config.memBytes) : Memory.wfFrom font lo (Memory.cons font a v m) = true := by
  unfold Memory.cons
  split
  · exact Memory.wfFrom_mono font hm (by omega)
  · simp_all [Memory.wfFrom]

theorem Memory.wfFrom_write {lo a : Nat} {v : Byte} {m : Memory} (hm : Memory.wfFrom font lo m = true)
    (hlo : lo ≤ a) (ha : a < Config.memBytes) : Memory.wfFrom font lo (Memory.write font m a v) = true := by
  induction m generalizing lo with
  | nil => exact Memory.wfFrom_consCell font rfl hlo ha
  | cons c m ih =>
    obtain ⟨b, u⟩ := c
    simp only [Memory.wfFrom, Bool.and_eq_true, decide_eq_true_eq] at hm
    simp only [Memory.write]
    split
    · exact Memory.wfFrom_consCell font (by simp [Memory.wfFrom, hm]; omega) hlo ha
    · split
      · subst_vars
        exact Memory.wfFrom_consCell font hm.2 hlo ha
      · simp only [Memory.wfFrom, Bool.and_eq_true, decide_eq_true_eq]
        exact ⟨⟨⟨hm.1.1.1, hm.1.1.2⟩, hm.1.2⟩, ih hm.2 (by omega)⟩

/-- A write keeps the canonical form. -/
theorem Memory.wf_write {a : Nat} {v : Byte} {m : Memory} (hm : Memory.wf font m = true) (ha : a < Config.memBytes) :
    Memory.wf font (Memory.write font m a v) = true := Memory.wfFrom_write font hm (Nat.zero_le a) ha

/-- A write leaves every other byte alone. -/
theorem Memory.read_write_of_ne (m : Memory) (a b : Nat) (v : Byte) (h : b ≠ a) :
    Memory.read font (Memory.write font m a v) b = Memory.read font m b := by
  induction m with
  | nil => exact Memory.read_consCell_of_ne font a b v [] h
  | cons c m ih =>
    obtain ⟨d, u⟩ := c
    simp only [Memory.write]
    split
    · exact Memory.read_consCell_of_ne font a b v _ h
    · split
      · subst_vars
        rw [Memory.read_consCell_of_ne font _ b v _ h, Memory.read_cons, if_neg h]
      · simp only [Memory.read_cons, ih]

theorem Memory.read_write_self_from {lo : Nat} {m : Memory} (hm : Memory.wfFrom font lo m = true) (a : Nat) (v : Byte) :
    Memory.read font (Memory.write font m a v) a = v := by
  induction m generalizing lo with
  | nil => exact Memory.read_consCell_self font a v [] rfl
  | cons c m ih =>
    obtain ⟨d, u⟩ := c
    simp only [Memory.wfFrom, Bool.and_eq_true, decide_eq_true_eq] at hm
    simp only [Memory.write]
    split
    · refine Memory.read_consCell_self font a v _ ?_
      rw [Memory.read_cons, if_neg (by omega)]
      exact Memory.read_of_lt font hm.2 (by omega)
    · split
      · subst_vars
        exact Memory.read_consCell_self font _ v _ (Memory.read_of_lt font hm.2 (by omega))
      · rw [Memory.read_cons, if_neg (by assumption)]
        exact ih hm.2

/-- A read after a write to the same address gives the byte written. -/
theorem Memory.read_write_self {m : Memory} (hm : Memory.wf font m = true) (a : Nat) (v : Byte) :
    Memory.read font (Memory.write font m a v) a = v := Memory.read_write_self_from font hm a v

end Sys2Proof.Machine
end

