-- ==== Sys2Proof/Laws/State.lean ====
section
/-! SUPPORT. What every field, and every accessor, of a state reads after each named update: all true by rfl. -/

namespace Sys2Proof.Machine

variable (s : State)

/-! ## After `State.setReg` -/

@[simp] theorem State.setReg_v (x : RegIdx) (a : Byte) : (s.setReg x a).v = s.v.set x.toNat a x.isLt := rfl
@[simp] theorem State.setReg_i (x : RegIdx) (a : Byte) : (s.setReg x a).i = s.i := rfl
@[simp] theorem State.setReg_pc (x : RegIdx) (a : Byte) : (s.setReg x a).pc = s.pc := rfl
@[simp] theorem State.setReg_stack (x : RegIdx) (a : Byte) : (s.setReg x a).stack = s.stack := rfl
@[simp] theorem State.setReg_dt (x : RegIdx) (a : Byte) : (s.setReg x a).dt = s.dt := rfl
@[simp] theorem State.setReg_phase (x : RegIdx) (a : Byte) : (s.setReg x a).phase = s.phase := rfl
@[simp] theorem State.setReg_st (x : RegIdx) (a : Byte) : (s.setReg x a).st = s.st := rfl
@[simp] theorem State.setReg_mem (x : RegIdx) (a : Byte) : (s.setReg x a).mem = s.mem := rfl
@[simp] theorem State.setReg_fb (x : RegIdx) (a : Byte) : (s.setReg x a).fb = s.fb := rfl
@[simp] theorem State.setReg_mode (x : RegIdx) (a : Byte) : (s.setReg x a).mode = s.mode := rfl
@[simp] theorem State.setReg_cause (x : RegIdx) (a : Byte) : (s.setReg x a).cause = s.cause := rfl
@[simp] theorem State.setReg_unk (x : RegIdx) (a : Byte) : (s.setReg x a).unk = s.unk := rfl
@[simp] theorem State.setReg_keys (x : RegIdx) (a : Byte) : (s.setReg x a).keys = s.keys := rfl
@[simp] theorem State.setReg_draws (x : RegIdx) (a : Byte) : (s.setReg x a).draws = s.draws := rfl
@[simp] theorem State.setReg_outputs (x : RegIdx) (a : Byte) : (s.setReg x a).outputs = s.outputs := rfl
@[simp] theorem State.setReg_pending (x : RegIdx) (a : Byte) : (s.setReg x a).pending = s.pending := rfl
@[simp] theorem State.setReg_params (x : RegIdx) (a : Byte) : (s.setReg x a).params = s.params := rfl
@[simp] theorem State.setReg_byte (x : RegIdx) (a : Byte) (q : Nat) : (s.setReg x a).byte q = s.byte q := rfl
@[simp] theorem State.setReg_pixel (x : RegIdx) (a : Byte) (p : Fin 64) (q : Fin 32) : (s.setReg x a).pixel p q = s.pixel p q := rfl

/-! ## After `State.setI` -/

@[simp] theorem State.setI_v (a : Word) : (s.setI a).v = s.v := rfl
@[simp] theorem State.setI_i (a : Word) : (s.setI a).i = a := rfl
@[simp] theorem State.setI_pc (a : Word) : (s.setI a).pc = s.pc := rfl
@[simp] theorem State.setI_stack (a : Word) : (s.setI a).stack = s.stack := rfl
@[simp] theorem State.setI_dt (a : Word) : (s.setI a).dt = s.dt := rfl
@[simp] theorem State.setI_phase (a : Word) : (s.setI a).phase = s.phase := rfl
@[simp] theorem State.setI_st (a : Word) : (s.setI a).st = s.st := rfl
@[simp] theorem State.setI_mem (a : Word) : (s.setI a).mem = s.mem := rfl
@[simp] theorem State.setI_fb (a : Word) : (s.setI a).fb = s.fb := rfl
@[simp] theorem State.setI_mode (a : Word) : (s.setI a).mode = s.mode := rfl
@[simp] theorem State.setI_cause (a : Word) : (s.setI a).cause = s.cause := rfl
@[simp] theorem State.setI_unk (a : Word) : (s.setI a).unk = s.unk := rfl
@[simp] theorem State.setI_keys (a : Word) : (s.setI a).keys = s.keys := rfl
@[simp] theorem State.setI_draws (a : Word) : (s.setI a).draws = s.draws := rfl
@[simp] theorem State.setI_outputs (a : Word) : (s.setI a).outputs = s.outputs := rfl
@[simp] theorem State.setI_pending (a : Word) : (s.setI a).pending = s.pending := rfl
@[simp] theorem State.setI_params (a : Word) : (s.setI a).params = s.params := rfl
@[simp] theorem State.setI_reg (a : Word) (r : RegIdx) : (s.setI a).reg r = s.reg r := rfl
@[simp] theorem State.setI_byte (a : Word) (q : Nat) : (s.setI a).byte q = s.byte q := rfl
@[simp] theorem State.setI_pixel (a : Word) (p : Fin 64) (q : Fin 32) : (s.setI a).pixel p q = s.pixel p q := rfl

/-! ## After `State.setPc` -/

@[simp] theorem State.setPc_v (a : Word) : (s.setPc a).v = s.v := rfl
@[simp] theorem State.setPc_i (a : Word) : (s.setPc a).i = s.i := rfl
@[simp] theorem State.setPc_pc (a : Word) : (s.setPc a).pc = a := rfl
@[simp] theorem State.setPc_stack (a : Word) : (s.setPc a).stack = s.stack := rfl
@[simp] theorem State.setPc_dt (a : Word) : (s.setPc a).dt = s.dt := rfl
@[simp] theorem State.setPc_phase (a : Word) : (s.setPc a).phase = s.phase := rfl
@[simp] theorem State.setPc_st (a : Word) : (s.setPc a).st = s.st := rfl
@[simp] theorem State.setPc_mem (a : Word) : (s.setPc a).mem = s.mem := rfl
@[simp] theorem State.setPc_fb (a : Word) : (s.setPc a).fb = s.fb := rfl
@[simp] theorem State.setPc_mode (a : Word) : (s.setPc a).mode = s.mode := rfl
@[simp] theorem State.setPc_cause (a : Word) : (s.setPc a).cause = s.cause := rfl
@[simp] theorem State.setPc_unk (a : Word) : (s.setPc a).unk = s.unk := rfl
@[simp] theorem State.setPc_keys (a : Word) : (s.setPc a).keys = s.keys := rfl
@[simp] theorem State.setPc_draws (a : Word) : (s.setPc a).draws = s.draws := rfl
@[simp] theorem State.setPc_outputs (a : Word) : (s.setPc a).outputs = s.outputs := rfl
@[simp] theorem State.setPc_pending (a : Word) : (s.setPc a).pending = s.pending := rfl
@[simp] theorem State.setPc_params (a : Word) : (s.setPc a).params = s.params := rfl
@[simp] theorem State.setPc_reg (a : Word) (r : RegIdx) : (s.setPc a).reg r = s.reg r := rfl
@[simp] theorem State.setPc_byte (a : Word) (q : Nat) : (s.setPc a).byte q = s.byte q := rfl
@[simp] theorem State.setPc_pixel (a : Word) (p : Fin 64) (q : Fin 32) : (s.setPc a).pixel p q = s.pixel p q := rfl

/-! ## After `State.advancePc` -/

@[simp] theorem State.advancePc_v : (s.advancePc).v = s.v := rfl
@[simp] theorem State.advancePc_i : (s.advancePc).i = s.i := rfl
@[simp] theorem State.advancePc_pc : (s.advancePc).pc = s.pc + 2#16 := rfl
@[simp] theorem State.advancePc_stack : (s.advancePc).stack = s.stack := rfl
@[simp] theorem State.advancePc_dt : (s.advancePc).dt = s.dt := rfl
@[simp] theorem State.advancePc_phase : (s.advancePc).phase = s.phase := rfl
@[simp] theorem State.advancePc_st : (s.advancePc).st = s.st := rfl
@[simp] theorem State.advancePc_mem : (s.advancePc).mem = s.mem := rfl
@[simp] theorem State.advancePc_fb : (s.advancePc).fb = s.fb := rfl
@[simp] theorem State.advancePc_mode : (s.advancePc).mode = s.mode := rfl
@[simp] theorem State.advancePc_cause : (s.advancePc).cause = s.cause := rfl
@[simp] theorem State.advancePc_unk : (s.advancePc).unk = s.unk := rfl
@[simp] theorem State.advancePc_keys : (s.advancePc).keys = s.keys := rfl
@[simp] theorem State.advancePc_draws : (s.advancePc).draws = s.draws := rfl
@[simp] theorem State.advancePc_outputs : (s.advancePc).outputs = s.outputs := rfl
@[simp] theorem State.advancePc_pending : (s.advancePc).pending = s.pending := rfl
@[simp] theorem State.advancePc_params : (s.advancePc).params = s.params := rfl
@[simp] theorem State.advancePc_reg (r : RegIdx) : (s.advancePc).reg r = s.reg r := rfl
@[simp] theorem State.advancePc_byte (q : Nat) : (s.advancePc).byte q = s.byte q := rfl
@[simp] theorem State.advancePc_pixel (p : Fin 64) (q : Fin 32) : (s.advancePc).pixel p q = s.pixel p q := rfl

/-! ## After `State.setSt` -/

@[simp] theorem State.setSt_v (a : Byte) : (s.setSt a).v = s.v := rfl
@[simp] theorem State.setSt_i (a : Byte) : (s.setSt a).i = s.i := rfl
@[simp] theorem State.setSt_pc (a : Byte) : (s.setSt a).pc = s.pc := rfl
@[simp] theorem State.setSt_stack (a : Byte) : (s.setSt a).stack = s.stack := rfl
@[simp] theorem State.setSt_dt (a : Byte) : (s.setSt a).dt = s.dt := rfl
@[simp] theorem State.setSt_phase (a : Byte) : (s.setSt a).phase = s.phase := rfl
@[simp] theorem State.setSt_st (a : Byte) : (s.setSt a).st = a := rfl
@[simp] theorem State.setSt_mem (a : Byte) : (s.setSt a).mem = s.mem := rfl
@[simp] theorem State.setSt_fb (a : Byte) : (s.setSt a).fb = s.fb := rfl
@[simp] theorem State.setSt_mode (a : Byte) : (s.setSt a).mode = s.mode := rfl
@[simp] theorem State.setSt_cause (a : Byte) : (s.setSt a).cause = s.cause := rfl
@[simp] theorem State.setSt_unk (a : Byte) : (s.setSt a).unk = s.unk := rfl
@[simp] theorem State.setSt_keys (a : Byte) : (s.setSt a).keys = s.keys := rfl
@[simp] theorem State.setSt_draws (a : Byte) : (s.setSt a).draws = s.draws := rfl
@[simp] theorem State.setSt_outputs (a : Byte) : (s.setSt a).outputs = s.outputs := rfl
@[simp] theorem State.setSt_pending (a : Byte) : (s.setSt a).pending = s.pending := rfl
@[simp] theorem State.setSt_params (a : Byte) : (s.setSt a).params = s.params := rfl
@[simp] theorem State.setSt_reg (a : Byte) (r : RegIdx) : (s.setSt a).reg r = s.reg r := rfl
@[simp] theorem State.setSt_byte (a : Byte) (q : Nat) : (s.setSt a).byte q = s.byte q := rfl
@[simp] theorem State.setSt_pixel (a : Byte) (p : Fin 64) (q : Fin 32) : (s.setSt a).pixel p q = s.pixel p q := rfl

/-! ## After `State.setDt` -/

@[simp] theorem State.setDt_v (a : Byte) : (s.setDt a).v = s.v := rfl
@[simp] theorem State.setDt_i (a : Byte) : (s.setDt a).i = s.i := rfl
@[simp] theorem State.setDt_pc (a : Byte) : (s.setDt a).pc = s.pc := rfl
@[simp] theorem State.setDt_stack (a : Byte) : (s.setDt a).stack = s.stack := rfl
@[simp] theorem State.setDt_dt (a : Byte) : (s.setDt a).dt = a := rfl
@[simp] theorem State.setDt_phase (a : Byte) : (s.setDt a).phase = 0 := rfl
@[simp] theorem State.setDt_st (a : Byte) : (s.setDt a).st = s.st := rfl
@[simp] theorem State.setDt_mem (a : Byte) : (s.setDt a).mem = s.mem := rfl
@[simp] theorem State.setDt_fb (a : Byte) : (s.setDt a).fb = s.fb := rfl
@[simp] theorem State.setDt_mode (a : Byte) : (s.setDt a).mode = s.mode := rfl
@[simp] theorem State.setDt_cause (a : Byte) : (s.setDt a).cause = s.cause := rfl
@[simp] theorem State.setDt_unk (a : Byte) : (s.setDt a).unk = s.unk := rfl
@[simp] theorem State.setDt_keys (a : Byte) : (s.setDt a).keys = s.keys := rfl
@[simp] theorem State.setDt_draws (a : Byte) : (s.setDt a).draws = s.draws := rfl
@[simp] theorem State.setDt_outputs (a : Byte) : (s.setDt a).outputs = s.outputs := rfl
@[simp] theorem State.setDt_pending (a : Byte) : (s.setDt a).pending = s.pending := rfl
@[simp] theorem State.setDt_params (a : Byte) : (s.setDt a).params = s.params := rfl
@[simp] theorem State.setDt_reg (a : Byte) (r : RegIdx) : (s.setDt a).reg r = s.reg r := rfl
@[simp] theorem State.setDt_byte (a : Byte) (q : Nat) : (s.setDt a).byte q = s.byte q := rfl
@[simp] theorem State.setDt_pixel (a : Byte) (p : Fin 64) (q : Fin 32) : (s.setDt a).pixel p q = s.pixel p q := rfl

/-! ## After `State.raise` -/

@[simp] theorem State.raise_v (c : Cause) : (s.raise c).v = s.v := rfl
@[simp] theorem State.raise_i (c : Cause) : (s.raise c).i = s.i := rfl
@[simp] theorem State.raise_pc (c : Cause) : (s.raise c).pc = s.pc := rfl
@[simp] theorem State.raise_stack (c : Cause) : (s.raise c).stack = s.stack := rfl
@[simp] theorem State.raise_dt (c : Cause) : (s.raise c).dt = s.dt := rfl
@[simp] theorem State.raise_phase (c : Cause) : (s.raise c).phase = s.phase := rfl
@[simp] theorem State.raise_st (c : Cause) : (s.raise c).st = s.st := rfl
@[simp] theorem State.raise_mem (c : Cause) : (s.raise c).mem = s.mem := rfl
@[simp] theorem State.raise_fb (c : Cause) : (s.raise c).fb = s.fb := rfl
@[simp] theorem State.raise_mode (c : Cause) : (s.raise c).mode = .halt := rfl
@[simp] theorem State.raise_cause (c : Cause) : (s.raise c).cause = c := rfl
@[simp] theorem State.raise_unk (c : Cause) : (s.raise c).unk = s.unk := rfl
@[simp] theorem State.raise_keys (c : Cause) : (s.raise c).keys = s.keys := rfl
@[simp] theorem State.raise_draws (c : Cause) : (s.raise c).draws = s.draws := rfl
@[simp] theorem State.raise_outputs (c : Cause) : (s.raise c).outputs = s.outputs := rfl
@[simp] theorem State.raise_pending (c : Cause) : (s.raise c).pending = s.pending := rfl
@[simp] theorem State.raise_params (c : Cause) : (s.raise c).params = s.params := rfl
@[simp] theorem State.raise_reg (c : Cause) (r : RegIdx) : (s.raise c).reg r = s.reg r := rfl
@[simp] theorem State.raise_byte (c : Cause) (q : Nat) : (s.raise c).byte q = s.byte q := rfl
@[simp] theorem State.raise_pixel (c : Cause) (p : Fin 64) (q : Fin 32) : (s.raise c).pixel p q = s.pixel p q := rfl

/-! ## After `State.suspend` -/

@[simp] theorem State.suspend_v (x : RegIdx) : (s.suspend x).v = s.v := rfl
@[simp] theorem State.suspend_i (x : RegIdx) : (s.suspend x).i = s.i := rfl
@[simp] theorem State.suspend_pc (x : RegIdx) : (s.suspend x).pc = s.pc := rfl
@[simp] theorem State.suspend_stack (x : RegIdx) : (s.suspend x).stack = s.stack := rfl
@[simp] theorem State.suspend_dt (x : RegIdx) : (s.suspend x).dt = s.dt := rfl
@[simp] theorem State.suspend_phase (x : RegIdx) : (s.suspend x).phase = s.phase := rfl
@[simp] theorem State.suspend_st (x : RegIdx) : (s.suspend x).st = s.st := rfl
@[simp] theorem State.suspend_mem (x : RegIdx) : (s.suspend x).mem = s.mem := rfl
@[simp] theorem State.suspend_fb (x : RegIdx) : (s.suspend x).fb = s.fb := rfl
@[simp] theorem State.suspend_mode (x : RegIdx) : (s.suspend x).mode = .waitKey x := rfl
@[simp] theorem State.suspend_cause (x : RegIdx) : (s.suspend x).cause = s.cause := rfl
@[simp] theorem State.suspend_unk (x : RegIdx) : (s.suspend x).unk = s.unk := rfl
@[simp] theorem State.suspend_keys (x : RegIdx) : (s.suspend x).keys = s.keys := rfl
@[simp] theorem State.suspend_draws (x : RegIdx) : (s.suspend x).draws = s.draws := rfl
@[simp] theorem State.suspend_outputs (x : RegIdx) : (s.suspend x).outputs = s.outputs := rfl
@[simp] theorem State.suspend_pending (x : RegIdx) : (s.suspend x).pending = s.pending := rfl
@[simp] theorem State.suspend_params (x : RegIdx) : (s.suspend x).params = s.params := rfl
@[simp] theorem State.suspend_reg (x : RegIdx) (r : RegIdx) : (s.suspend x).reg r = s.reg r := rfl
@[simp] theorem State.suspend_byte (x : RegIdx) (q : Nat) : (s.suspend x).byte q = s.byte q := rfl
@[simp] theorem State.suspend_pixel (x : RegIdx) (p : Fin 64) (q : Fin 32) : (s.suspend x).pixel p q = s.pixel p q := rfl

/-! ## After `State.resume` -/

@[simp] theorem State.resume_v : (s.resume).v = s.v := rfl
@[simp] theorem State.resume_i : (s.resume).i = s.i := rfl
@[simp] theorem State.resume_pc : (s.resume).pc = s.pc := rfl
@[simp] theorem State.resume_stack : (s.resume).stack = s.stack := rfl
@[simp] theorem State.resume_dt : (s.resume).dt = s.dt := rfl
@[simp] theorem State.resume_phase : (s.resume).phase = s.phase := rfl
@[simp] theorem State.resume_st : (s.resume).st = s.st := rfl
@[simp] theorem State.resume_mem : (s.resume).mem = s.mem := rfl
@[simp] theorem State.resume_fb : (s.resume).fb = s.fb := rfl
@[simp] theorem State.resume_mode : (s.resume).mode = .run := rfl
@[simp] theorem State.resume_cause : (s.resume).cause = s.cause := rfl
@[simp] theorem State.resume_unk : (s.resume).unk = s.unk := rfl
@[simp] theorem State.resume_keys : (s.resume).keys = s.keys := rfl
@[simp] theorem State.resume_draws : (s.resume).draws = s.draws := rfl
@[simp] theorem State.resume_outputs : (s.resume).outputs = s.outputs := rfl
@[simp] theorem State.resume_pending : (s.resume).pending = s.pending := rfl
@[simp] theorem State.resume_params : (s.resume).params = s.params := rfl
@[simp] theorem State.resume_reg (r : RegIdx) : (s.resume).reg r = s.reg r := rfl
@[simp] theorem State.resume_byte (q : Nat) : (s.resume).byte q = s.byte q := rfl
@[simp] theorem State.resume_pixel (p : Fin 64) (q : Fin 32) : (s.resume).pixel p q = s.pixel p q := rfl

/-! ## After `State.emit` -/

@[simp] theorem State.emit_v (o : Output) : (s.emit o).v = s.v := rfl
@[simp] theorem State.emit_i (o : Output) : (s.emit o).i = s.i := rfl
@[simp] theorem State.emit_pc (o : Output) : (s.emit o).pc = s.pc := rfl
@[simp] theorem State.emit_stack (o : Output) : (s.emit o).stack = s.stack := rfl
@[simp] theorem State.emit_dt (o : Output) : (s.emit o).dt = s.dt := rfl
@[simp] theorem State.emit_phase (o : Output) : (s.emit o).phase = s.phase := rfl
@[simp] theorem State.emit_st (o : Output) : (s.emit o).st = s.st := rfl
@[simp] theorem State.emit_mem (o : Output) : (s.emit o).mem = s.mem := rfl
@[simp] theorem State.emit_fb (o : Output) : (s.emit o).fb = s.fb := rfl
@[simp] theorem State.emit_mode (o : Output) : (s.emit o).mode = s.mode := rfl
@[simp] theorem State.emit_cause (o : Output) : (s.emit o).cause = s.cause := rfl
@[simp] theorem State.emit_unk (o : Output) : (s.emit o).unk = s.unk := rfl
@[simp] theorem State.emit_keys (o : Output) : (s.emit o).keys = s.keys := rfl
@[simp] theorem State.emit_draws (o : Output) : (s.emit o).draws = s.draws := rfl
@[simp] theorem State.emit_outputs (o : Output) : (s.emit o).outputs = o :: s.outputs := rfl
@[simp] theorem State.emit_pending (o : Output) : (s.emit o).pending = s.pending := rfl
@[simp] theorem State.emit_params (o : Output) : (s.emit o).params = s.params := rfl
@[simp] theorem State.emit_reg (o : Output) (r : RegIdx) : (s.emit o).reg r = s.reg r := rfl
@[simp] theorem State.emit_byte (o : Output) (q : Nat) : (s.emit o).byte q = s.byte q := rfl
@[simp] theorem State.emit_pixel (o : Output) (p : Fin 64) (q : Fin 32) : (s.emit o).pixel p q = s.pixel p q := rfl

/-! ## After `State.diagUnknown` -/

@[simp] theorem State.diagUnknown_v (w a : Word) : (s.diagUnknown w a).v = s.v := rfl
@[simp] theorem State.diagUnknown_i (w a : Word) : (s.diagUnknown w a).i = s.i := rfl
@[simp] theorem State.diagUnknown_pc (w a : Word) : (s.diagUnknown w a).pc = s.pc := rfl
@[simp] theorem State.diagUnknown_stack (w a : Word) : (s.diagUnknown w a).stack = s.stack := rfl
@[simp] theorem State.diagUnknown_dt (w a : Word) : (s.diagUnknown w a).dt = s.dt := rfl
@[simp] theorem State.diagUnknown_phase (w a : Word) : (s.diagUnknown w a).phase = s.phase := rfl
@[simp] theorem State.diagUnknown_st (w a : Word) : (s.diagUnknown w a).st = s.st := rfl
@[simp] theorem State.diagUnknown_mem (w a : Word) : (s.diagUnknown w a).mem = s.mem := rfl
@[simp] theorem State.diagUnknown_fb (w a : Word) : (s.diagUnknown w a).fb = s.fb := rfl
@[simp] theorem State.diagUnknown_mode (w a : Word) : (s.diagUnknown w a).mode = s.mode := rfl
@[simp] theorem State.diagUnknown_cause (w a : Word) : (s.diagUnknown w a).cause = s.cause := rfl
@[simp] theorem State.diagUnknown_unk (w a : Word) : (s.diagUnknown w a).unk = true := rfl
@[simp] theorem State.diagUnknown_keys (w a : Word) : (s.diagUnknown w a).keys = s.keys := rfl
@[simp] theorem State.diagUnknown_draws (w a : Word) : (s.diagUnknown w a).draws = s.draws := rfl
@[simp] theorem State.diagUnknown_outputs (w a : Word) : (s.diagUnknown w a).outputs = .unknownOpcode w a :: s.outputs := rfl
@[simp] theorem State.diagUnknown_pending (w a : Word) : (s.diagUnknown w a).pending = s.pending := rfl
@[simp] theorem State.diagUnknown_params (w a : Word) : (s.diagUnknown w a).params = s.params := rfl
@[simp] theorem State.diagUnknown_reg (w a : Word) (r : RegIdx) : (s.diagUnknown w a).reg r = s.reg r := rfl
@[simp] theorem State.diagUnknown_byte (w a : Word) (q : Nat) : (s.diagUnknown w a).byte q = s.byte q := rfl
@[simp] theorem State.diagUnknown_pixel (w a : Word) (p : Fin 64) (q : Fin 32) : (s.diagUnknown w a).pixel p q = s.pixel p q := rfl

/-! ## After `State.countDraw` -/

@[simp] theorem State.countDraw_v : (s.countDraw).v = s.v := rfl
@[simp] theorem State.countDraw_i : (s.countDraw).i = s.i := rfl
@[simp] theorem State.countDraw_pc : (s.countDraw).pc = s.pc := rfl
@[simp] theorem State.countDraw_stack : (s.countDraw).stack = s.stack := rfl
@[simp] theorem State.countDraw_dt : (s.countDraw).dt = s.dt := rfl
@[simp] theorem State.countDraw_phase : (s.countDraw).phase = s.phase := rfl
@[simp] theorem State.countDraw_st : (s.countDraw).st = s.st := rfl
@[simp] theorem State.countDraw_mem : (s.countDraw).mem = s.mem := rfl
@[simp] theorem State.countDraw_fb : (s.countDraw).fb = s.fb := rfl
@[simp] theorem State.countDraw_mode : (s.countDraw).mode = s.mode := rfl
@[simp] theorem State.countDraw_cause : (s.countDraw).cause = s.cause := rfl
@[simp] theorem State.countDraw_unk : (s.countDraw).unk = s.unk := rfl
@[simp] theorem State.countDraw_keys : (s.countDraw).keys = s.keys := rfl
@[simp] theorem State.countDraw_draws : (s.countDraw).draws = s.draws + 1 := rfl
@[simp] theorem State.countDraw_outputs : (s.countDraw).outputs = s.outputs := rfl
@[simp] theorem State.countDraw_pending : (s.countDraw).pending = s.pending := rfl
@[simp] theorem State.countDraw_params : (s.countDraw).params = s.params := rfl
@[simp] theorem State.countDraw_reg (r : RegIdx) : (s.countDraw).reg r = s.reg r := rfl
@[simp] theorem State.countDraw_byte (q : Nat) : (s.countDraw).byte q = s.byte q := rfl
@[simp] theorem State.countDraw_pixel (p : Fin 64) (q : Fin 32) : (s.countDraw).pixel p q = s.pixel p q := rfl

/-! ## After `State.setStack` -/

@[simp] theorem State.setStack_v (l : List Word) : (s.setStack l).v = s.v := rfl
@[simp] theorem State.setStack_i (l : List Word) : (s.setStack l).i = s.i := rfl
@[simp] theorem State.setStack_pc (l : List Word) : (s.setStack l).pc = s.pc := rfl
@[simp] theorem State.setStack_stack (l : List Word) : (s.setStack l).stack = l := rfl
@[simp] theorem State.setStack_dt (l : List Word) : (s.setStack l).dt = s.dt := rfl
@[simp] theorem State.setStack_phase (l : List Word) : (s.setStack l).phase = s.phase := rfl
@[simp] theorem State.setStack_st (l : List Word) : (s.setStack l).st = s.st := rfl
@[simp] theorem State.setStack_mem (l : List Word) : (s.setStack l).mem = s.mem := rfl
@[simp] theorem State.setStack_fb (l : List Word) : (s.setStack l).fb = s.fb := rfl
@[simp] theorem State.setStack_mode (l : List Word) : (s.setStack l).mode = s.mode := rfl
@[simp] theorem State.setStack_cause (l : List Word) : (s.setStack l).cause = s.cause := rfl
@[simp] theorem State.setStack_unk (l : List Word) : (s.setStack l).unk = s.unk := rfl
@[simp] theorem State.setStack_keys (l : List Word) : (s.setStack l).keys = s.keys := rfl
@[simp] theorem State.setStack_draws (l : List Word) : (s.setStack l).draws = s.draws := rfl
@[simp] theorem State.setStack_outputs (l : List Word) : (s.setStack l).outputs = s.outputs := rfl
@[simp] theorem State.setStack_pending (l : List Word) : (s.setStack l).pending = s.pending := rfl
@[simp] theorem State.setStack_params (l : List Word) : (s.setStack l).params = s.params := rfl
@[simp] theorem State.setStack_reg (l : List Word) (r : RegIdx) : (s.setStack l).reg r = s.reg r := rfl
@[simp] theorem State.setStack_byte (l : List Word) (q : Nat) : (s.setStack l).byte q = s.byte q := rfl
@[simp] theorem State.setStack_pixel (l : List Word) (p : Fin 64) (q : Fin 32) : (s.setStack l).pixel p q = s.pixel p q := rfl

/-! ## After `State.setByte` -/

@[simp] theorem State.setByte_v (a : Nat) (b : Byte) : (s.setByte a b).v = s.v := rfl
@[simp] theorem State.setByte_i (a : Nat) (b : Byte) : (s.setByte a b).i = s.i := rfl
@[simp] theorem State.setByte_pc (a : Nat) (b : Byte) : (s.setByte a b).pc = s.pc := rfl
@[simp] theorem State.setByte_stack (a : Nat) (b : Byte) : (s.setByte a b).stack = s.stack := rfl
@[simp] theorem State.setByte_dt (a : Nat) (b : Byte) : (s.setByte a b).dt = s.dt := rfl
@[simp] theorem State.setByte_phase (a : Nat) (b : Byte) : (s.setByte a b).phase = s.phase := rfl
@[simp] theorem State.setByte_st (a : Nat) (b : Byte) : (s.setByte a b).st = s.st := rfl
@[simp] theorem State.setByte_mem (a : Nat) (b : Byte) : (s.setByte a b).mem = Memory.write s.params.font s.mem a b := rfl
@[simp] theorem State.setByte_fb (a : Nat) (b : Byte) : (s.setByte a b).fb = s.fb := rfl
@[simp] theorem State.setByte_mode (a : Nat) (b : Byte) : (s.setByte a b).mode = s.mode := rfl
@[simp] theorem State.setByte_cause (a : Nat) (b : Byte) : (s.setByte a b).cause = s.cause := rfl
@[simp] theorem State.setByte_unk (a : Nat) (b : Byte) : (s.setByte a b).unk = s.unk := rfl
@[simp] theorem State.setByte_keys (a : Nat) (b : Byte) : (s.setByte a b).keys = s.keys := rfl
@[simp] theorem State.setByte_draws (a : Nat) (b : Byte) : (s.setByte a b).draws = s.draws := rfl
@[simp] theorem State.setByte_outputs (a : Nat) (b : Byte) : (s.setByte a b).outputs = s.outputs := rfl
@[simp] theorem State.setByte_pending (a : Nat) (b : Byte) : (s.setByte a b).pending = s.pending := rfl
@[simp] theorem State.setByte_params (a : Nat) (b : Byte) : (s.setByte a b).params = s.params := rfl
@[simp] theorem State.setByte_reg (a : Nat) (b : Byte) (r : RegIdx) : (s.setByte a b).reg r = s.reg r := rfl
@[simp] theorem State.setByte_pixel (a : Nat) (b : Byte) (p : Fin 64) (q : Fin 32) : (s.setByte a b).pixel p q = s.pixel p q := rfl

/-! ## After `State.setFb` -/

@[simp] theorem State.setFb_v (f : Framebuffer) : (s.setFb f).v = s.v := rfl
@[simp] theorem State.setFb_i (f : Framebuffer) : (s.setFb f).i = s.i := rfl
@[simp] theorem State.setFb_pc (f : Framebuffer) : (s.setFb f).pc = s.pc := rfl
@[simp] theorem State.setFb_stack (f : Framebuffer) : (s.setFb f).stack = s.stack := rfl
@[simp] theorem State.setFb_dt (f : Framebuffer) : (s.setFb f).dt = s.dt := rfl
@[simp] theorem State.setFb_phase (f : Framebuffer) : (s.setFb f).phase = s.phase := rfl
@[simp] theorem State.setFb_st (f : Framebuffer) : (s.setFb f).st = s.st := rfl
@[simp] theorem State.setFb_mem (f : Framebuffer) : (s.setFb f).mem = s.mem := rfl
@[simp] theorem State.setFb_fb (f : Framebuffer) : (s.setFb f).fb = f := rfl
@[simp] theorem State.setFb_mode (f : Framebuffer) : (s.setFb f).mode = s.mode := rfl
@[simp] theorem State.setFb_cause (f : Framebuffer) : (s.setFb f).cause = s.cause := rfl
@[simp] theorem State.setFb_unk (f : Framebuffer) : (s.setFb f).unk = s.unk := rfl
@[simp] theorem State.setFb_keys (f : Framebuffer) : (s.setFb f).keys = s.keys := rfl
@[simp] theorem State.setFb_draws (f : Framebuffer) : (s.setFb f).draws = s.draws := rfl
@[simp] theorem State.setFb_outputs (f : Framebuffer) : (s.setFb f).outputs = s.outputs := rfl
@[simp] theorem State.setFb_pending (f : Framebuffer) : (s.setFb f).pending = s.pending := rfl
@[simp] theorem State.setFb_params (f : Framebuffer) : (s.setFb f).params = s.params := rfl
@[simp] theorem State.setFb_reg (f : Framebuffer) (r : RegIdx) : (s.setFb f).reg r = s.reg r := rfl
@[simp] theorem State.setFb_byte (f : Framebuffer) (q : Nat) : (s.setFb f).byte q = s.byte q := rfl

/-! ## After `State.clear` -/

@[simp] theorem State.clear_v : (s.clear).v = s.v := rfl
@[simp] theorem State.clear_i : (s.clear).i = s.i := rfl
@[simp] theorem State.clear_pc : (s.clear).pc = s.pc := rfl
@[simp] theorem State.clear_stack : (s.clear).stack = s.stack := rfl
@[simp] theorem State.clear_dt : (s.clear).dt = s.dt := rfl
@[simp] theorem State.clear_phase : (s.clear).phase = s.phase := rfl
@[simp] theorem State.clear_st : (s.clear).st = s.st := rfl
@[simp] theorem State.clear_mem : (s.clear).mem = s.mem := rfl
@[simp] theorem State.clear_fb : (s.clear).fb = blankFramebuffer := rfl
@[simp] theorem State.clear_mode : (s.clear).mode = s.mode := rfl
@[simp] theorem State.clear_cause : (s.clear).cause = s.cause := rfl
@[simp] theorem State.clear_unk : (s.clear).unk = s.unk := rfl
@[simp] theorem State.clear_keys : (s.clear).keys = s.keys := rfl
@[simp] theorem State.clear_draws : (s.clear).draws = s.draws := rfl
@[simp] theorem State.clear_outputs : (s.clear).outputs = s.outputs := rfl
@[simp] theorem State.clear_pending : (s.clear).pending = s.pending := rfl
@[simp] theorem State.clear_params : (s.clear).params = s.params := rfl
@[simp] theorem State.clear_reg (r : RegIdx) : (s.clear).reg r = s.reg r := rfl
@[simp] theorem State.clear_byte (q : Nat) : (s.clear).byte q = s.byte q := rfl

/-! ## After `State.present` -/

@[simp] theorem State.present_v : (s.present).v = s.v := rfl
@[simp] theorem State.present_i : (s.present).i = s.i := rfl
@[simp] theorem State.present_pc : (s.present).pc = s.pc := rfl
@[simp] theorem State.present_stack : (s.present).stack = s.stack := rfl
@[simp] theorem State.present_dt : (s.present).dt = s.dt := rfl
@[simp] theorem State.present_phase : (s.present).phase = s.phase := rfl
@[simp] theorem State.present_st : (s.present).st = s.st := rfl
@[simp] theorem State.present_mem : (s.present).mem = s.mem := rfl
@[simp] theorem State.present_fb : (s.present).fb = s.fb := rfl
@[simp] theorem State.present_mode : (s.present).mode = s.mode := rfl
@[simp] theorem State.present_cause : (s.present).cause = s.cause := rfl
@[simp] theorem State.present_unk : (s.present).unk = s.unk := rfl
@[simp] theorem State.present_keys : (s.present).keys = s.keys := rfl
@[simp] theorem State.present_draws : (s.present).draws = s.draws := rfl
@[simp] theorem State.present_outputs : (s.present).outputs = .present :: s.outputs := rfl
@[simp] theorem State.present_pending : (s.present).pending = s.pending := rfl
@[simp] theorem State.present_params : (s.present).params = s.params := rfl
@[simp] theorem State.present_reg (r : RegIdx) : (s.present).reg r = s.reg r := rfl
@[simp] theorem State.present_byte (q : Nat) : (s.present).byte q = s.byte q := rfl
@[simp] theorem State.present_pixel (p : Fin 64) (q : Fin 32) : (s.present).pixel p q = s.pixel p q := rfl

/-! ## After `State.setFlag` -/

@[simp] theorem State.setFlag_v (c : Bool) : (s.setFlag c).v = s.v.set VF.toNat (flagByte c) VF.isLt := rfl
@[simp] theorem State.setFlag_i (c : Bool) : (s.setFlag c).i = s.i := rfl
@[simp] theorem State.setFlag_pc (c : Bool) : (s.setFlag c).pc = s.pc := rfl
@[simp] theorem State.setFlag_stack (c : Bool) : (s.setFlag c).stack = s.stack := rfl
@[simp] theorem State.setFlag_dt (c : Bool) : (s.setFlag c).dt = s.dt := rfl
@[simp] theorem State.setFlag_phase (c : Bool) : (s.setFlag c).phase = s.phase := rfl
@[simp] theorem State.setFlag_st (c : Bool) : (s.setFlag c).st = s.st := rfl
@[simp] theorem State.setFlag_mem (c : Bool) : (s.setFlag c).mem = s.mem := rfl
@[simp] theorem State.setFlag_fb (c : Bool) : (s.setFlag c).fb = s.fb := rfl
@[simp] theorem State.setFlag_mode (c : Bool) : (s.setFlag c).mode = s.mode := rfl
@[simp] theorem State.setFlag_cause (c : Bool) : (s.setFlag c).cause = s.cause := rfl
@[simp] theorem State.setFlag_unk (c : Bool) : (s.setFlag c).unk = s.unk := rfl
@[simp] theorem State.setFlag_keys (c : Bool) : (s.setFlag c).keys = s.keys := rfl
@[simp] theorem State.setFlag_draws (c : Bool) : (s.setFlag c).draws = s.draws := rfl
@[simp] theorem State.setFlag_outputs (c : Bool) : (s.setFlag c).outputs = s.outputs := rfl
@[simp] theorem State.setFlag_pending (c : Bool) : (s.setFlag c).pending = s.pending := rfl
@[simp] theorem State.setFlag_params (c : Bool) : (s.setFlag c).params = s.params := rfl
@[simp] theorem State.setFlag_byte (c : Bool) (q : Nat) : (s.setFlag c).byte q = s.byte q := rfl
@[simp] theorem State.setFlag_pixel (c : Bool) (p : Fin 64) (q : Fin 32) : (s.setFlag c).pixel p q = s.pixel p q := rfl

/-! ## After `State.countDown` -/

@[simp] theorem State.countDown_v (a : Byte) : (s.countDown a).v = s.v := rfl
@[simp] theorem State.countDown_i (a : Byte) : (s.countDown a).i = s.i := rfl
@[simp] theorem State.countDown_pc (a : Byte) : (s.countDown a).pc = s.pc := rfl
@[simp] theorem State.countDown_stack (a : Byte) : (s.countDown a).stack = s.stack := rfl
@[simp] theorem State.countDown_dt (a : Byte) : (s.countDown a).dt = a := rfl
@[simp] theorem State.countDown_phase (a : Byte) : (s.countDown a).phase = s.phase := rfl
@[simp] theorem State.countDown_st (a : Byte) : (s.countDown a).st = s.st := rfl
@[simp] theorem State.countDown_mem (a : Byte) : (s.countDown a).mem = s.mem := rfl
@[simp] theorem State.countDown_fb (a : Byte) : (s.countDown a).fb = s.fb := rfl
@[simp] theorem State.countDown_mode (a : Byte) : (s.countDown a).mode = s.mode := rfl
@[simp] theorem State.countDown_cause (a : Byte) : (s.countDown a).cause = s.cause := rfl
@[simp] theorem State.countDown_unk (a : Byte) : (s.countDown a).unk = s.unk := rfl
@[simp] theorem State.countDown_keys (a : Byte) : (s.countDown a).keys = s.keys := rfl
@[simp] theorem State.countDown_draws (a : Byte) : (s.countDown a).draws = s.draws := rfl
@[simp] theorem State.countDown_outputs (a : Byte) : (s.countDown a).outputs = s.outputs := rfl
@[simp] theorem State.countDown_pending (a : Byte) : (s.countDown a).pending = s.pending := rfl
@[simp] theorem State.countDown_params (a : Byte) : (s.countDown a).params = s.params := rfl
@[simp] theorem State.countDown_reg (a : Byte) (r : RegIdx) : (s.countDown a).reg r = s.reg r := rfl
@[simp] theorem State.countDown_byte (a : Byte) (q : Nat) : (s.countDown a).byte q = s.byte q := rfl
@[simp] theorem State.countDown_pixel (a : Byte) (p : Fin 64) (q : Fin 32) : (s.countDown a).pixel p q = s.pixel p q := rfl

/-! ## After `State.setPhase` -/

@[simp] theorem State.setPhase_v (n : Nat) : (s.setPhase n).v = s.v := rfl
@[simp] theorem State.setPhase_i (n : Nat) : (s.setPhase n).i = s.i := rfl
@[simp] theorem State.setPhase_pc (n : Nat) : (s.setPhase n).pc = s.pc := rfl
@[simp] theorem State.setPhase_stack (n : Nat) : (s.setPhase n).stack = s.stack := rfl
@[simp] theorem State.setPhase_dt (n : Nat) : (s.setPhase n).dt = s.dt := rfl
@[simp] theorem State.setPhase_phase (n : Nat) : (s.setPhase n).phase = n := rfl
@[simp] theorem State.setPhase_st (n : Nat) : (s.setPhase n).st = s.st := rfl
@[simp] theorem State.setPhase_mem (n : Nat) : (s.setPhase n).mem = s.mem := rfl
@[simp] theorem State.setPhase_fb (n : Nat) : (s.setPhase n).fb = s.fb := rfl
@[simp] theorem State.setPhase_mode (n : Nat) : (s.setPhase n).mode = s.mode := rfl
@[simp] theorem State.setPhase_cause (n : Nat) : (s.setPhase n).cause = s.cause := rfl
@[simp] theorem State.setPhase_unk (n : Nat) : (s.setPhase n).unk = s.unk := rfl
@[simp] theorem State.setPhase_keys (n : Nat) : (s.setPhase n).keys = s.keys := rfl
@[simp] theorem State.setPhase_draws (n : Nat) : (s.setPhase n).draws = s.draws := rfl
@[simp] theorem State.setPhase_outputs (n : Nat) : (s.setPhase n).outputs = s.outputs := rfl
@[simp] theorem State.setPhase_pending (n : Nat) : (s.setPhase n).pending = s.pending := rfl
@[simp] theorem State.setPhase_params (n : Nat) : (s.setPhase n).params = s.params := rfl
@[simp] theorem State.setPhase_reg (n : Nat) (r : RegIdx) : (s.setPhase n).reg r = s.reg r := rfl
@[simp] theorem State.setPhase_byte (n : Nat) (q : Nat) : (s.setPhase n).byte q = s.byte q := rfl
@[simp] theorem State.setPhase_pixel (n : Nat) (p : Fin 64) (q : Fin 32) : (s.setPhase n).pixel p q = s.pixel p q := rfl

/-! ## After `State.setKey` -/

@[simp] theorem State.setKey_v (k : Fin 16) (d : Bool) : (s.setKey k d).v = s.v := rfl
@[simp] theorem State.setKey_i (k : Fin 16) (d : Bool) : (s.setKey k d).i = s.i := rfl
@[simp] theorem State.setKey_pc (k : Fin 16) (d : Bool) : (s.setKey k d).pc = s.pc := rfl
@[simp] theorem State.setKey_stack (k : Fin 16) (d : Bool) : (s.setKey k d).stack = s.stack := rfl
@[simp] theorem State.setKey_dt (k : Fin 16) (d : Bool) : (s.setKey k d).dt = s.dt := rfl
@[simp] theorem State.setKey_phase (k : Fin 16) (d : Bool) : (s.setKey k d).phase = s.phase := rfl
@[simp] theorem State.setKey_st (k : Fin 16) (d : Bool) : (s.setKey k d).st = s.st := rfl
@[simp] theorem State.setKey_mem (k : Fin 16) (d : Bool) : (s.setKey k d).mem = s.mem := rfl
@[simp] theorem State.setKey_fb (k : Fin 16) (d : Bool) : (s.setKey k d).fb = s.fb := rfl
@[simp] theorem State.setKey_mode (k : Fin 16) (d : Bool) : (s.setKey k d).mode = s.mode := rfl
@[simp] theorem State.setKey_cause (k : Fin 16) (d : Bool) : (s.setKey k d).cause = s.cause := rfl
@[simp] theorem State.setKey_unk (k : Fin 16) (d : Bool) : (s.setKey k d).unk = s.unk := rfl
@[simp] theorem State.setKey_keys (k : Fin 16) (d : Bool) : (s.setKey k d).keys = s.keys.set k d := rfl
@[simp] theorem State.setKey_draws (k : Fin 16) (d : Bool) : (s.setKey k d).draws = s.draws := rfl
@[simp] theorem State.setKey_outputs (k : Fin 16) (d : Bool) : (s.setKey k d).outputs = s.outputs := rfl
@[simp] theorem State.setKey_pending (k : Fin 16) (d : Bool) : (s.setKey k d).pending = s.pending := rfl
@[simp] theorem State.setKey_params (k : Fin 16) (d : Bool) : (s.setKey k d).params = s.params := rfl
@[simp] theorem State.setKey_reg (k : Fin 16) (d : Bool) (r : RegIdx) : (s.setKey k d).reg r = s.reg r := rfl
@[simp] theorem State.setKey_byte (k : Fin 16) (d : Bool) (q : Nat) : (s.setKey k d).byte q = s.byte q := rfl
@[simp] theorem State.setKey_pixel (k : Fin 16) (d : Bool) (p : Fin 64) (q : Fin 32) : (s.setKey k d).pixel p q = s.pixel p q := rfl

/-! ## After `State.setPending` -/

@[simp] theorem State.setPending_v (l : List Move) : (s.setPending l).v = s.v := rfl
@[simp] theorem State.setPending_i (l : List Move) : (s.setPending l).i = s.i := rfl
@[simp] theorem State.setPending_pc (l : List Move) : (s.setPending l).pc = s.pc := rfl
@[simp] theorem State.setPending_stack (l : List Move) : (s.setPending l).stack = s.stack := rfl
@[simp] theorem State.setPending_dt (l : List Move) : (s.setPending l).dt = s.dt := rfl
@[simp] theorem State.setPending_phase (l : List Move) : (s.setPending l).phase = s.phase := rfl
@[simp] theorem State.setPending_st (l : List Move) : (s.setPending l).st = s.st := rfl
@[simp] theorem State.setPending_mem (l : List Move) : (s.setPending l).mem = s.mem := rfl
@[simp] theorem State.setPending_fb (l : List Move) : (s.setPending l).fb = s.fb := rfl
@[simp] theorem State.setPending_mode (l : List Move) : (s.setPending l).mode = s.mode := rfl
@[simp] theorem State.setPending_cause (l : List Move) : (s.setPending l).cause = s.cause := rfl
@[simp] theorem State.setPending_unk (l : List Move) : (s.setPending l).unk = s.unk := rfl
@[simp] theorem State.setPending_keys (l : List Move) : (s.setPending l).keys = s.keys := rfl
@[simp] theorem State.setPending_draws (l : List Move) : (s.setPending l).draws = s.draws := rfl
@[simp] theorem State.setPending_outputs (l : List Move) : (s.setPending l).outputs = s.outputs := rfl
@[simp] theorem State.setPending_pending (l : List Move) : (s.setPending l).pending = l := rfl
@[simp] theorem State.setPending_params (l : List Move) : (s.setPending l).params = s.params := rfl
@[simp] theorem State.setPending_reg (l : List Move) (r : RegIdx) : (s.setPending l).reg r = s.reg r := rfl
@[simp] theorem State.setPending_byte (l : List Move) (q : Nat) : (s.setPending l).byte q = s.byte q := rfl
@[simp] theorem State.setPending_pixel (l : List Move) (p : Fin 64) (q : Fin 32) : (s.setPending l).pixel p q = s.pixel p q := rfl

end Sys2Proof.Machine
end

