-- ==== Sys2Proof/Laws/Ops.lean ====
section
/-! SUPPORT. One lemma per shared operation of Machine/Ops, Operands, Flags and Environment, for proofs to cite. -/

namespace Sys2Proof.Machine

variable (s : State)

/-! ## Registers and flags -/

theorem State.setReg_reg (x : RegIdx) (a : Byte) (r : RegIdx) : (s.setReg x a).reg r = if r = x then a else s.reg r := by
  simp only [State.reg, State.setReg, Vector.getElem_set]
  by_cases h : r = x
  · simp [h]
  · rw [if_neg (fun e => h (BitVec.eq_of_toNat_eq e.symm)), if_neg h]

@[simp] theorem State.setReg_reg_self (x : RegIdx) (a : Byte) : (s.setReg x a).reg x = a := by
  rw [State.setReg_reg, if_pos rfl]

theorem State.setReg_reg_of_ne (x : RegIdx) (a : Byte) (r : RegIdx) (h : r ≠ x) : (s.setReg x a).reg r = s.reg r := by
  rw [State.setReg_reg, if_neg h]

theorem State.setFlag_reg (c : Bool) (r : RegIdx) : (s.setFlag c).reg r = if r = VF then flagByte c else s.reg r :=
  s.setReg_reg VF (flagByte c) r

/-- What the two writes of a flag-writing instruction leave in a register, under either order (R120). -/
theorem State.setResultAndFlag_reg (x : RegIdx) (a : Byte) (c : Bool) (r : RegIdx) :
    (s.setResultAndFlag x a c).reg r =
      match s.params.vfOrder with
      | .flagLast => if r = VF then flagByte c else if r = x then a else s.reg r
      | .resultLast => if r = x then a else if r = VF then flagByte c else s.reg r := by
  unfold State.setResultAndFlag
  cases s.params.vfOrder <;> simp only [State.setFlag_reg, State.setReg_reg]

/-- The two writes change the registers only. -/
theorem State.setResultAndFlag_eq (x : RegIdx) (a : Byte) (c : Bool) :
    s.setResultAndFlag x a c = { s with v := (s.setResultAndFlag x a c).v } := by
  unfold State.setResultAndFlag
  split <;> rfl

theorem State.skipIf_eq (c : Bool) : s.skipIf c = s.setPc (if c then s.pc + 2#16 else s.pc) := by
  cases c <;> rfl

/-! ## The stack -/

/-- `Push` faults on a full stack, else continues with one entry more (R29). -/
theorem State.pushThen_cases (a : Word) (k : State → State) :
    (s.stackFull = true ∧ s.pushThen a k = s.raise .stackOverflow) ∨
    (s.stackFull = false ∧ s.pushThen a k = k (s.setStack (a :: s.stack))) := by
  unfold State.pushThen
  cases h : s.stackFull <;> simp

/-- `Pop` faults on an empty stack, else continues with the newest entry (R30). -/
theorem State.popThen_cases (k : Word → State → State) :
    (s.stack = [] ∧ s.popThen k = s.raise .stackUnderflow) ∨
    (∃ a rest, s.stack = a :: rest ∧ s.popThen k = k a (s.setStack rest)) := by
  unfold State.popThen
  cases h : s.stack <;> simp

theorem State.stackFull_iff : s.stackFull = true ↔ ∃ d, s.params.stackDepth = some d ∧ d ≤ s.stack.length := by
  unfold State.stackFull
  cases h : s.params.stackDepth <;> simp

/-! ## Memory -/

theorem outOfRange_iff (base n : Nat) : outOfRange base n = true ↔ 0 < n ∧ 0x1000 < base + n := by
  simp only [outOfRange, Config.lastAddr, Bool.and_eq_true, decide_eq_true_eq]
  omega

/-- The range check faults with nothing else changed, or goes on (R54). -/
theorem State.checkedRange_cases (base n : Nat) (k : State → State) :
    (0 < n ∧ 0x1000 < base + n ∧ s.checkedRange base n k = s.raise .memoryOutOfRange) ∨
    ((n = 0 ∨ base + n ≤ 0x1000) ∧ s.checkedRange base n k = k s) := by
  unfold State.checkedRange
  by_cases h : outOfRange base n = true
  · obtain ⟨h1, h2⟩ := (outOfRange_iff base n).mp h
    exact .inl ⟨h1, h2, if_pos h⟩
  · refine .inr ⟨?_, if_neg h⟩
    rw [outOfRange_iff] at h
    omega

theorem State.setByte_byte_self (h : Memory.wf s.params.font s.mem = true) (a : Nat) (b : Byte) :
    (s.setByte a b).byte a = b := Memory.read_write_self _ h a b

theorem State.setByte_byte_of_ne (a : Nat) (b : Byte) (q : Nat) (h : q ≠ a) : (s.setByte a b).byte q = s.byte q :=
  Memory.read_write_of_ne _ s.mem a q b h

/-- Writing bytes changes memory only. -/
theorem State.writeBytes_eq (base : Nat) (bs : List Byte) (s : State) :
    State.writeBytes base bs s = { s with mem := (State.writeBytes base bs s).mem } := by
  induction bs generalizing base s with
  | nil => rfl
  | cons b bs ih =>
    rw [State.writeBytes, ih]
    rfl

@[simp] theorem State.writeBytes_params (base : Nat) (bs : List Byte) (s : State) :
    (State.writeBytes base bs s).params = s.params := by rw [State.writeBytes_eq]

@[simp] theorem State.writeBytes_reg (base : Nat) (bs : List Byte) (s : State) (r : RegIdx) :
    (State.writeBytes base bs s).reg r = s.reg r := by rw [State.writeBytes_eq]; rfl

/-- Bytes outside those written read as before. -/
theorem State.writeBytes_byte_outside (base : Nat) (bs : List Byte) (s : State) (q : Nat)
    (h : ¬ (base ≤ q ∧ q < base + bs.length)) : (State.writeBytes base bs s).byte q = s.byte q := by
  induction bs generalizing base s with
  | nil => rfl
  | cons b bs ih =>
    simp only [List.length_cons] at h
    rw [State.writeBytes, ih (base + 1) (s.setByte base b) (by omega), State.setByte_byte_of_ne _ _ _ _ (by omega)]

/-- Writing in range keeps the canonical form of memory. -/
theorem State.writeBytes_wf (base : Nat) (bs : List Byte) (s : State) (hm : Memory.wf s.params.font s.mem = true)
    (h : bs = [] ∨ base + bs.length ≤ Config.memBytes) :
    Memory.wf s.params.font (State.writeBytes base bs s).mem = true := by
  induction bs generalizing base s with
  | nil => exact hm
  | cons b bs ih =>
    simp only [List.length_cons, reduceCtorEq, false_or] at h
    refine ih (base + 1) (s.setByte base b) (Memory.wf_write _ hm (by omega)) ?_
    rcases bs with _ | ⟨c, bs⟩
    · exact .inl rfl
    · exact .inr (by simp only [List.length_cons] at h ⊢; omega)

/-- The k-th byte written reads back at `base + k`, in a canonical memory. -/
theorem State.writeBytes_byte_inside (base : Nat) (bs : List Byte) (s : State) (hm : Memory.wf s.params.font s.mem = true)
    (h : base + bs.length ≤ Config.memBytes) (k : Nat) (hk : k < bs.length) :
    (State.writeBytes base bs s).byte (base + k) = bs[k] := by
  induction bs generalizing base s k with
  | nil => simp at hk
  | cons b bs ih =>
    simp only [List.length_cons] at h hk
    rw [State.writeBytes]
    cases k with
    | zero =>
      rw [State.writeBytes_byte_outside _ _ _ _ (by omega)]
      exact s.setByte_byte_self hm base b
    | succ k =>
      have := ih (base + 1) (s.setByte base b) (Memory.wf_write _ hm (by omega)) (by omega) k (by omega)
      simpa [Nat.add_assoc, Nat.add_comm 1 k] using this

@[simp] theorem State.firstRegs_length (n : Nat) : (s.firstRegs n).length = n := by simp [State.firstRegs]

@[simp] theorem State.readBytes_length (base n : Nat) : (s.readBytes base n).length = n := by simp [State.readBytes]

/-- A bulk load changes the registers only. -/
theorem State.loadRegs_eq (base n : Nat) (s : State) :
    State.loadRegs base n s = { s with v := (State.loadRegs base n s).v } := by
  induction n with
  | zero => rfl
  | succ n ih =>
    rw [State.loadRegs, ih]
    rfl

/-- After a bulk load register r below n holds the byte at `base + r`, the others what they held (R167). -/
theorem State.loadRegs_reg (base n : Nat) (s : State) (hn : n ≤ 16) (r : RegIdx) :
    (State.loadRegs base n s).reg r = if r.toNat < n then s.byte (base + r.toNat) else s.reg r := by
  induction n with
  | zero => simp [State.loadRegs]
  | succ n ih =>
    have hr := r.isLt
    rw [State.loadRegs, State.setReg_reg, ih (by omega)]
    by_cases h : r.toNat = n
    · subst h
      simp
    · have hne : r ≠ BitVec.ofNat 4 n := fun e => h (by rw [e, BitVec.toNat_ofNat, Nat.mod_eq_of_lt (by omega)])
      rw [if_neg hne]
      by_cases h2 : r.toNat < n
      · rw [if_pos h2, if_pos (by omega)]
      · rw [if_neg h2, if_neg (by omega)]

/-! ## Time -/

/-- A tick is one down, floored at zero (R210). -/
theorem State.tick_dt : (s.tick).dt.toNat = s.dt.toNat - 1 := by
  unfold State.tick
  split
  · next h => simp [h]
  · next h =>
    have : s.dt.toNat ≠ 0 := fun e => h (BitVec.eq_of_toNat_eq (by simpa using e))
    have := s.dt.isLt
    simp only [State.countDown_dt, BitVec.toNat_sub, BitVec.toNat_ofNat]
    omega

theorem State.tick_eq : s.tick = { s with dt := s.tick.dt } := by
  unfold State.tick
  split <;> rfl

theorem State.ticks_eq (n : Nat) (s : State) : State.ticks n s = { s with dt := (State.ticks n s).dt } := by
  induction n generalizing s with
  | zero => rfl
  | succ n ih => rw [State.ticks, ih, State.tick_eq]

/-- n ticks count DT down by n, floored at zero (R210). -/
theorem State.ticks_dt (n : Nat) (s : State) : (State.ticks n s).dt.toNat = s.dt.toNat - n := by
  induction n generalizing s with
  | zero => rfl
  | succ n ih =>
    rw [State.ticks, ih, State.tick_dt]
    omega

/-- The passage of time changes DT and its phase only. -/
theorem State.elapse_eq (u : Nat) : s.elapse u = { s with dt := (s.elapse u).dt, phase := (s.elapse u).phase } := by
  unfold State.elapse
  rw [State.ticks_eq]
  rfl

@[simp] theorem State.elapse_phase (u : Nat) : (s.elapse u).phase = (s.phase + u) % s.params.unitsPerTick := rfl

/-- DT after a time: down by the whole sixtieths that end in it (R211). -/
theorem State.elapse_dt (u : Nat) : (s.elapse u).dt.toNat = s.dt.toNat - (s.phase + u) / s.params.unitsPerTick := by
  unfold State.elapse
  rw [State.setPhase_dt, State.ticks_dt]
  rfl

/-! ## Keys -/

/-- A delivery completes a key wait, and is nothing in the other modes (R161, R218). -/
theorem State.deliver_cases (k : Fin 16) :
    (∃ x, s.mode = .waitKey x ∧ s.deliver k = (s.setReg x (keyOperand k)).resume) ∨
    ((∀ x, s.mode ≠ .waitKey x) ∧ s.deliver k = s) := by
  unfold State.deliver
  cases h : s.mode <;> simp

/-! ## Load -/

/-- A load is not accepted in WAITKEY; else it answers ImageTooLarge or writes the image (R254, R255). -/
theorem State.load_cases (bytes : List Byte) :
    ((∃ x, s.mode = .waitKey x) ∧ s.load bytes = s) ∨
    ((∀ x, s.mode ≠ .waitKey x) ∧ 3584 < bytes.length ∧ s.load bytes = s.emit .imageTooLarge) ∨
    ((∀ x, s.mode ≠ .waitKey x) ∧ bytes.length ≤ 3584 ∧ s.load bytes = State.writeBytes 0x200 bytes s) := by
  have key : (3584 < bytes.length ∧ s.loadImage bytes = s.emit .imageTooLarge) ∨
      (bytes.length ≤ 3584 ∧ s.loadImage bytes = State.writeBytes 0x200 bytes s) := by
    unfold State.loadImage imageFits
    by_cases h : bytes.length ≤ 3584
    · exact .inr ⟨h, if_pos (decide_eq_true h)⟩
    · exact .inl ⟨by omega, if_neg (by simpa [Config.maxImage] using h)⟩
  unfold State.load
  cases h : s.mode <;> simp_all

end Sys2Proof.Machine
end

