-- ==== Sys2Proof/Laws/Display.lean ====
section
/-! SUPPORT. What a toggle, a sprite row and a sprite do to a pixel (R141, R142, R215). -/

namespace Sys2Proof.Machine

@[simp] theorem fbPixel_blank (x : Fin 64) (y : Fin 32) : fbPixel blankFramebuffer x y = false := by
  simp [fbPixel, blankFramebuffer]

/-- A toggle flips its own pixel and no other (R215). -/
theorem toggle_pixel (fb : Framebuffer) (x p : Fin 64) (y q : Fin 32) :
    fbPixel (toggle fb x y).1 p q = (if p = x ∧ q = y then !fbPixel fb p q else fbPixel fb p q) := by
  simp only [toggle, fbPixel, Fin.getElem_fin, Vector.getElem_set]
  by_cases hq : y = q
  · subst hq
    by_cases hp : x = p
    · subst hp
      simp
    · have : ¬ (x : Nat) = p := fun e => hp (Fin.ext e)
      simp [this, Ne.symm hp]
  · have : ¬ (y : Nat) = q := fun e => hq (Fin.ext e)
    simp [this, Ne.symm hq]

/-- A toggle returns the pixel's state before the flip (R215). -/
theorem toggle_was (fb : Framebuffer) (x : Fin 64) (y : Fin 32) : (toggle fb x y).2 = fbPixel fb x y := rfl

theorem pixelColumn_inj {x0 a b : Nat} (ha : a < 64) (hb : b < 64) (h : pixelColumn x0 a = pixelColumn x0 b) : a = b := by
  have := congrArg Fin.val h
  simp only [pixelColumn, Fin.val_ofNat] at this
  omega

theorem pixelRow_inj {y0 a b : Nat} (ha : a < 32) (hb : b < 32) (h : pixelRow y0 a = pixelRow y0 b) : a = b := by
  have := congrArg Fin.val h
  simp only [pixelRow, Fin.val_ofNat] at this
  omega

/-- Some column below `n` of the sprite row `b` has its bit set and lands on column `p`. -/
def rowHits (x0 : Nat) (b : Byte) (n : Nat) (p : Fin 64) : Prop := ∃ c, c < n ∧ spriteBit b c = true ∧ pixelColumn x0 c = p

theorem rowHits_succ (x0 : Nat) (b : Byte) (n : Nat) (p : Fin 64) :
    rowHits x0 b (n + 1) p ↔ rowHits x0 b n p ∨ (spriteBit b n = true ∧ pixelColumn x0 n = p) := by
  constructor
  · rintro ⟨c, hc, hb, hp⟩
    by_cases h : c = n
    · subst h
      exact .inr ⟨hb, hp⟩
    · exact .inl ⟨c, by omega, hb, hp⟩
  · rintro (⟨c, hc, hb, hp⟩ | ⟨hb, hp⟩)
    · exact ⟨c, by omega, hb, hp⟩
    · exact ⟨n, by omega, hb, hp⟩

theorem not_rowHits_self (x0 : Nat) (b : Byte) (n : Nat) (hn : n < 8) : ¬ rowHits x0 b n (pixelColumn x0 n) := by
  rintro ⟨c, hc, -, hcp⟩
  have := pixelColumn_inj (by omega) (by omega) hcp
  omega

/-- A pixel that is not flipped is the same. -/
theorem eq_of_not_flipped {a b : Bool} (h : ¬ a ≠ b) : a = b := not_not.mp h

/-- A sprite row flips exactly the pixels its set bits land on (R142). -/
theorem drawColumns_pixel (x0 : Nat) (y : Fin 32) (b : Byte) (n : Nat) (hn : n ≤ 8) (fb : Framebuffer)
    (p : Fin 64) (q : Fin 32) :
    fbPixel (drawColumns x0 y b n fb).1 p q ≠ fbPixel fb p q ↔ q = y ∧ rowHits x0 b n p := by
  induction n with
  | zero => simp [drawColumns, rowHits]
  | succ n ih =>
    have ih := ih (by omega)
    rw [rowHits_succ, drawColumns]
    by_cases hb : spriteBit b n = true
    · rw [if_pos hb]
      dsimp only
      rw [toggle_pixel]
      by_cases hp : p = pixelColumn x0 n ∧ q = y
      · obtain ⟨rfl, rfl⟩ := hp
        have hsame := eq_of_not_flipped fun h => not_rowHits_self x0 b n (by omega) (ih.mp h).2
        rw [if_pos ⟨rfl, rfl⟩, hsame]
        simp [hb]
      · rw [if_neg hp, ih]
        constructor
        · rintro ⟨h1, h2⟩
          exact ⟨h1, .inl h2⟩
        · rintro ⟨h1, h2 | ⟨-, h2⟩⟩
          · exact ⟨h1, h2⟩
          · exact absurd ⟨h2.symm, h1⟩ hp
    · rw [if_neg hb, ih]
      simp [hb]

/-- A sprite row reports a hit exactly when a set bit of it lands on a set pixel (R142). -/
theorem drawColumns_hit (x0 : Nat) (y : Fin 32) (b : Byte) (n : Nat) (hn : n ≤ 8) (fb : Framebuffer) :
    (drawColumns x0 y b n fb).2 = true ↔ ∃ p, rowHits x0 b n p ∧ fbPixel fb p y = true := by
  induction n with
  | zero => simp [drawColumns, rowHits]
  | succ n ih =>
    have ih := ih (by omega)
    have hsame := eq_of_not_flipped fun h =>
      not_rowHits_self x0 b n (by omega) ((drawColumns_pixel x0 y b n (by omega) fb _ y).mp h).2
    simp only [rowHits_succ]
    rw [drawColumns]
    by_cases hb : spriteBit b n = true
    · rw [if_pos hb]
      dsimp only
      rw [toggle_was, Bool.or_eq_true, ih, hsame]
      constructor
      · rintro (⟨p, h1, h2⟩ | h)
        · exact ⟨p, .inl h1, h2⟩
        · exact ⟨_, .inr ⟨hb, rfl⟩, h⟩
      · rintro ⟨p, h1 | ⟨-, rfl⟩, h2⟩
        · exact .inl ⟨p, h1, h2⟩
        · exact .inr h2
    · rw [if_neg hb, ih]
      simp [hb]

/-- Row `row + r` of a sprite, its r-th byte of `bs`, has a set bit that lands on pixel (p, q). -/
def rowsHit (x0 y0 row : Nat) (bs : List Byte) (p : Fin 64) (q : Fin 32) : Prop :=
  ∃ r, ∃ h : r < bs.length, rowHits x0 bs[r] 8 p ∧ pixelRow y0 (row + r) = q

theorem rowsHit_cons (x0 y0 row : Nat) (b : Byte) (bs : List Byte) (p : Fin 64) (q : Fin 32) :
    rowsHit x0 y0 row (b :: bs) p q ↔ rowsHit x0 y0 (row + 1) bs p q ∨ (q = pixelRow y0 row ∧ rowHits x0 b 8 p) := by
  constructor
  · rintro ⟨r, h, h1, h2⟩
    cases r with
    | zero => exact .inr ⟨h2.symm, h1⟩
    | succ r => exact .inl ⟨r, by simpa using h, h1, by rw [← h2, Nat.add_assoc, Nat.add_comm 1 r]⟩
  · rintro (⟨r, h, h1, h2⟩ | ⟨h2, h1⟩)
    · exact ⟨r + 1, by simpa using h, h1, by rw [← h2, Nat.add_assoc, Nat.add_comm 1 r]⟩
    · exact ⟨0, by simp, h1, h2.symm⟩

/-- The later rows of a sprite never land on the row of an earlier one: at most 32 rows (R145). -/
theorem not_rowsHit_earlier (x0 y0 row : Nat) (bs : List Byte) (hn : row + 1 + bs.length ≤ 32) (p : Fin 64) :
    ¬ rowsHit x0 y0 (row + 1) bs p (pixelRow y0 row) := by
  rintro ⟨r, h, -, h2⟩
  have := congrArg Fin.val h2
  simp only [pixelRow, Fin.val_ofNat] at this
  omega

/-- The rows of a sprite flip exactly the pixels their set bits land on (R142). -/
theorem drawRows_pixel (x0 y0 row : Nat) (bs : List Byte) (hn : row + bs.length ≤ 32) (fb : Framebuffer)
    (p : Fin 64) (q : Fin 32) :
    fbPixel (drawRows x0 y0 row bs fb).1 p q ≠ fbPixel fb p q ↔ rowsHit x0 y0 row bs p q := by
  induction bs generalizing row fb with
  | nil => simp [drawRows, rowsHit]
  | cons b bs ih =>
    simp only [List.length_cons] at hn
    have h1 := drawColumns_pixel x0 (pixelRow y0 row) b 8 (by omega) fb p q
    have h2 := ih (row + 1) (by omega) (drawColumns x0 (pixelRow y0 row) b 8 fb).1
    rw [rowsHit_cons, ← h1, ← h2, drawRows]
    dsimp only
    by_cases hq : q = pixelRow y0 row
    · have hsame := eq_of_not_flipped fun h => by
        rw [h2, hq] at h
        exact not_rowsHit_earlier x0 y0 row bs (by omega) p h
      rw [hsame]
      simp
    · rw [eq_of_not_flipped fun h => hq (h1.mp h).1]
      simp

/-- The rows of a sprite report a hit exactly when a set bit lands on a set pixel (R142). -/
theorem drawRows_hit (x0 y0 row : Nat) (bs : List Byte) (hn : row + bs.length ≤ 32) (fb : Framebuffer) :
    (drawRows x0 y0 row bs fb).2 = true ↔ ∃ p q, rowsHit x0 y0 row bs p q ∧ fbPixel fb p q = true := by
  induction bs generalizing row fb with
  | nil => simp [drawRows, rowsHit]
  | cons b bs ih =>
    simp only [List.length_cons] at hn
    have h1 := drawColumns_pixel x0 (pixelRow y0 row) b 8 (by omega) fb
    rw [drawRows]
    dsimp only
    rw [Bool.or_eq_true, drawColumns_hit _ _ _ _ (by omega), ih (row + 1) (by omega)]
    have hsame : ∀ p q, rowsHit x0 y0 (row + 1) bs p q →
        fbPixel (drawColumns x0 (pixelRow y0 row) b 8 fb).1 p q = fbPixel fb p q := fun p q hr =>
      eq_of_not_flipped fun h => by
        rw [(h1 p q |>.mp h).1] at hr
        exact not_rowsHit_earlier x0 y0 row bs (by omega) p hr
    constructor
    · rintro (⟨p, h, hp⟩ | ⟨p, q, h, hp⟩)
      · exact ⟨p, _, (rowsHit_cons ..).mpr (.inr ⟨rfl, h⟩), hp⟩
      · exact ⟨p, q, (rowsHit_cons ..).mpr (.inl h), hsame p q h ▸ hp⟩
    · rintro ⟨p, q, h, hp⟩
      rcases (rowsHit_cons ..).mp h with hr | ⟨hq, hr⟩
      · exact .inr ⟨p, q, hr, (hsame p q hr).symm ▸ hp⟩
      · exact .inl ⟨p, hr, hq ▸ hp⟩

end Sys2Proof.Machine
end

