-- ==== Sys2Proof/Laws/PerInstr.lean ====
section
/-! SUPPORT. Per instruction: it is well-formed, its row is in the opcode map, and its encoding selects that row (R75). -/

namespace Sys2Proof

/-- The bits a row fixes are what is left of a word of format A under its mask (R73). -/
theorem packA_mask (f : Nibble) (a : Addr12) : packA f a &&& 0xF000#16 = packA f 0#12 :=
  (BitVec.and_append (x₁ := f) (x₂ := 0xF#4) (y₁ := a) (y₂ := 0#12)).trans
    (by rw [BitVec.and_zero, show f &&& 0xF#4 = f by revert f; decide]; rfl)

theorem packXI_mask (f x : Nibble) (nn : Byte) : packXI f x nn &&& 0xF000#16 = packXI f 0#4 0#8 :=
  (BitVec.and_append (x₁ := f ++ x) (x₂ := 0xF#4 ++ 0#4) (y₁ := nn) (y₂ := 0#8)).trans
    (by rw [BitVec.and_zero, BitVec.and_append, BitVec.and_zero, show f &&& 0xF#4 = f by revert f; decide]; rfl)

theorem packXI_mask_low (f x : Nibble) (nn : Byte) : packXI f x nn &&& 0xF0FF#16 = packXI f 0#4 nn :=
  (BitVec.and_append (x₁ := f ++ x) (x₂ := 0xF#4 ++ 0#4) (y₁ := nn) (y₂ := 0xFF#8)).trans
    (by rw [BitVec.and_append, BitVec.and_zero, show f &&& 0xF#4 = f by revert f; decide,
          show nn &&& 0xFF#8 = nn by revert nn; decide]; rfl)

theorem packXY_mask (f x y d : Nibble) : packXY f x y d &&& 0xF000#16 = packXY f 0#4 0#4 0#4 :=
  (BitVec.and_append (x₁ := f ++ x ++ y) (x₂ := 0xF#4 ++ 0#4 ++ 0#4) (y₁ := d) (y₂ := 0#4)).trans
    (by rw [BitVec.and_zero, BitVec.and_append, BitVec.and_zero, BitVec.and_append, BitVec.and_zero,
          show f &&& 0xF#4 = f by revert f; decide]; rfl)

theorem packXY_mask_low (f x y d : Nibble) : packXY f x y d &&& 0xF00F#16 = packXY f 0#4 0#4 d :=
  (BitVec.and_append (x₁ := f ++ x ++ y) (x₂ := 0xF#4 ++ 0#4 ++ 0#4) (y₁ := d) (y₂ := 0xF#4)).trans
    (by rw [BitVec.and_append, BitVec.and_zero, BitVec.and_append, BitVec.and_zero,
          show f &&& 0xF#4 = f by revert f; decide, show d &&& 0xF#4 = d by revert d; decide]; rfl)

/-- Well-formed, of a row of the opcode map, and encoded as a word that selects that row (R75). -/
def Laws.EncodesRow.Statement (i : Instr) : Prop :=
  i.wellFormed = true ∧ i.row ∈ opcodeMap ∧ i.row.selects (encode i) = true

theorem Laws.EncodesRow.cls : Laws.EncodesRow.Statement .cls := ⟨rfl, by decide, by decide⟩

theorem Laws.EncodesRow.ret : Laws.EncodesRow.Statement .ret := ⟨rfl, by decide, by decide⟩

theorem Laws.EncodesRow.jp (nnn : Addr12) : Laws.EncodesRow.Statement (.jp nnn) :=
  ⟨rfl, by simp [Instr.row, opcodeMap], by
    simp only [OpcodeRow.selects, Instr.row, encode, packA_mask]
    decide⟩

theorem Laws.EncodesRow.call (nnn : Addr12) : Laws.EncodesRow.Statement (.call nnn) :=
  ⟨rfl, by simp [Instr.row, opcodeMap], by
    simp only [OpcodeRow.selects, Instr.row, encode, packA_mask]
    decide⟩

theorem Laws.EncodesRow.seImm (x : RegIdx) (nn : Byte) : Laws.EncodesRow.Statement (.seImm x nn) :=
  ⟨rfl, by simp [Instr.row, opcodeMap], by
    simp only [OpcodeRow.selects, Instr.row, encode, packXI_mask]
    decide⟩

theorem Laws.EncodesRow.sneImm (x : RegIdx) (nn : Byte) : Laws.EncodesRow.Statement (.sneImm x nn) :=
  ⟨rfl, by simp [Instr.row, opcodeMap], by
    simp only [OpcodeRow.selects, Instr.row, encode, packXI_mask]
    decide⟩

theorem Laws.EncodesRow.seReg (x y : RegIdx) : Laws.EncodesRow.Statement (.seReg x y) :=
  ⟨rfl, by simp [Instr.row, opcodeMap], by
    simp only [OpcodeRow.selects, Instr.row, encode, packXY_mask_low]
    decide⟩

theorem Laws.EncodesRow.ldImm (x : RegIdx) (nn : Byte) : Laws.EncodesRow.Statement (.ldImm x nn) :=
  ⟨rfl, by simp [Instr.row, opcodeMap], by
    simp only [OpcodeRow.selects, Instr.row, encode, packXI_mask]
    decide⟩

theorem Laws.EncodesRow.addImm (x : RegIdx) (nn : Byte) : Laws.EncodesRow.Statement (.addImm x nn) :=
  ⟨rfl, by simp [Instr.row, opcodeMap], by
    simp only [OpcodeRow.selects, Instr.row, encode, packXI_mask]
    decide⟩

theorem Laws.EncodesRow.ldReg (x y : RegIdx) : Laws.EncodesRow.Statement (.ldReg x y) :=
  ⟨rfl, by simp [Instr.row, opcodeMap], by
    simp only [OpcodeRow.selects, Instr.row, encode, packXY_mask_low]
    decide⟩

theorem Laws.EncodesRow.orReg (x y : RegIdx) : Laws.EncodesRow.Statement (.orReg x y) :=
  ⟨rfl, by simp [Instr.row, opcodeMap], by
    simp only [OpcodeRow.selects, Instr.row, encode, packXY_mask_low]
    decide⟩

theorem Laws.EncodesRow.andReg (x y : RegIdx) : Laws.EncodesRow.Statement (.andReg x y) :=
  ⟨rfl, by simp [Instr.row, opcodeMap], by
    simp only [OpcodeRow.selects, Instr.row, encode, packXY_mask_low]
    decide⟩

theorem Laws.EncodesRow.xorReg (x y : RegIdx) : Laws.EncodesRow.Statement (.xorReg x y) :=
  ⟨rfl, by simp [Instr.row, opcodeMap], by
    simp only [OpcodeRow.selects, Instr.row, encode, packXY_mask_low]
    decide⟩

theorem Laws.EncodesRow.addReg (x y : RegIdx) : Laws.EncodesRow.Statement (.addReg x y) :=
  ⟨rfl, by simp [Instr.row, opcodeMap], by
    simp only [OpcodeRow.selects, Instr.row, encode, packXY_mask_low]
    decide⟩

theorem Laws.EncodesRow.subReg (x y : RegIdx) : Laws.EncodesRow.Statement (.subReg x y) :=
  ⟨rfl, by simp [Instr.row, opcodeMap], by
    simp only [OpcodeRow.selects, Instr.row, encode, packXY_mask_low]
    decide⟩

theorem Laws.EncodesRow.shr (x y : RegIdx) : Laws.EncodesRow.Statement (.shr x y) :=
  ⟨rfl, by simp [Instr.row, opcodeMap], by
    simp only [OpcodeRow.selects, Instr.row, encode, packXY_mask_low]
    decide⟩

theorem Laws.EncodesRow.subn (x y : RegIdx) : Laws.EncodesRow.Statement (.subn x y) :=
  ⟨rfl, by simp [Instr.row, opcodeMap], by
    simp only [OpcodeRow.selects, Instr.row, encode, packXY_mask_low]
    decide⟩

theorem Laws.EncodesRow.shl (x : RegIdx) : Laws.EncodesRow.Statement (.shl x) :=
  ⟨rfl, by simp [Instr.row, opcodeMap], by
    simp only [OpcodeRow.selects, Instr.row, encode, packXY_mask_low]
    decide⟩

theorem Laws.EncodesRow.sneReg (x y : RegIdx) : Laws.EncodesRow.Statement (.sneReg x y) :=
  ⟨rfl, by simp [Instr.row, opcodeMap], by
    simp only [OpcodeRow.selects, Instr.row, encode, packXY_mask_low]
    decide⟩

theorem Laws.EncodesRow.ldI (nnn : Addr12) : Laws.EncodesRow.Statement (.ldI nnn) :=
  ⟨rfl, by simp [Instr.row, opcodeMap], by
    simp only [OpcodeRow.selects, Instr.row, encode, packA_mask]
    decide⟩

theorem Laws.EncodesRow.jpV0 (nnn : Addr12) : Laws.EncodesRow.Statement (.jpV0 nnn) :=
  ⟨rfl, by simp [Instr.row, opcodeMap], by
    simp only [OpcodeRow.selects, Instr.row, encode, packA_mask]
    decide⟩

theorem Laws.EncodesRow.rnd (x : RegIdx) (nn : Byte) : Laws.EncodesRow.Statement (.rnd x nn) :=
  ⟨rfl, by simp [Instr.row, opcodeMap], by
    simp only [OpcodeRow.selects, Instr.row, encode, packXI_mask]
    decide⟩

theorem Laws.EncodesRow.drw (x y : RegIdx) (n : Nibble) : Laws.EncodesRow.Statement (.drw x y n) :=
  ⟨rfl, by simp [Instr.row, opcodeMap], by
    simp only [OpcodeRow.selects, Instr.row, encode, packXY_mask]
    decide⟩

theorem Laws.EncodesRow.skp (x : RegIdx) : Laws.EncodesRow.Statement (.skp x) :=
  ⟨rfl, by simp [Instr.row, opcodeMap], by
    simp only [OpcodeRow.selects, Instr.row, encode, packXI_mask_low]
    decide⟩

theorem Laws.EncodesRow.sknp (x : RegIdx) : Laws.EncodesRow.Statement (.sknp x) :=
  ⟨rfl, by simp [Instr.row, opcodeMap], by
    simp only [OpcodeRow.selects, Instr.row, encode, packXI_mask_low]
    decide⟩

theorem Laws.EncodesRow.ldVxDt (x : RegIdx) : Laws.EncodesRow.Statement (.ldVxDt x) :=
  ⟨rfl, by simp [Instr.row, opcodeMap], by
    simp only [OpcodeRow.selects, Instr.row, encode, packXI_mask_low]
    decide⟩

theorem Laws.EncodesRow.ldVxK (x : RegIdx) : Laws.EncodesRow.Statement (.ldVxK x) :=
  ⟨rfl, by simp [Instr.row, opcodeMap], by
    simp only [OpcodeRow.selects, Instr.row, encode, packXI_mask_low]
    decide⟩

theorem Laws.EncodesRow.ldDtVx (x : RegIdx) : Laws.EncodesRow.Statement (.ldDtVx x) :=
  ⟨rfl, by simp [Instr.row, opcodeMap], by
    simp only [OpcodeRow.selects, Instr.row, encode, packXI_mask_low]
    decide⟩

theorem Laws.EncodesRow.ldStVx (x : RegIdx) : Laws.EncodesRow.Statement (.ldStVx x) :=
  ⟨rfl, by simp [Instr.row, opcodeMap], by
    simp only [OpcodeRow.selects, Instr.row, encode, packXI_mask_low]
    decide⟩

theorem Laws.EncodesRow.addI (x : RegIdx) : Laws.EncodesRow.Statement (.addI x) :=
  ⟨rfl, by simp [Instr.row, opcodeMap], by
    simp only [OpcodeRow.selects, Instr.row, encode, packXI_mask_low]
    decide⟩

theorem Laws.EncodesRow.ldF (x : RegIdx) : Laws.EncodesRow.Statement (.ldF x) :=
  ⟨rfl, by simp [Instr.row, opcodeMap], by
    simp only [OpcodeRow.selects, Instr.row, encode, packXI_mask_low]
    decide⟩

theorem Laws.EncodesRow.ldB (x : RegIdx) : Laws.EncodesRow.Statement (.ldB x) :=
  ⟨rfl, by simp [Instr.row, opcodeMap], by
    simp only [OpcodeRow.selects, Instr.row, encode, packXI_mask_low]
    decide⟩

theorem Laws.EncodesRow.ldMemVx (x : RegIdx) : Laws.EncodesRow.Statement (.ldMemVx x) :=
  ⟨rfl, by simp [Instr.row, opcodeMap], by
    simp only [OpcodeRow.selects, Instr.row, encode, packXI_mask_low]
    decide⟩

theorem Laws.EncodesRow.ldVxMem (x : RegIdx) : Laws.EncodesRow.Statement (.ldVxMem x) :=
  ⟨rfl, by simp [Instr.row, opcodeMap], by
    simp only [OpcodeRow.selects, Instr.row, encode, packXI_mask_low]
    decide⟩

end Sys2Proof
end

