-- ==== Sys2Proof/Laws/Step.lean ====
section
/-! SUPPORT. Said once: what an instruction and a step can do, for proofs to cite instead of unfolding them. -/

namespace Sys2Proof.Machine

variable {s t : State}

/-! ## What an instruction can do -/

/-- RET halts on an empty stack or pops (R101). -/
theorem exec_ret_cases (s : State) :
    (s.stack = [] ∧ exec .ret s = .next (s.raise .stackUnderflow)) ∨
    (∃ a rest, s.stack = a :: rest ∧ exec .ret s = .next ((s.setStack rest).setPc a)) := by
  rcases s.popThen_cases (fun a t => t.setPc a) with ⟨h, e⟩ | ⟨a, rest, h, e⟩
  · exact .inl ⟨h, congrArg Host.Outcome.next e⟩
  · exact .inr ⟨a, rest, h, congrArg Host.Outcome.next e⟩

/-- CALL halts on a full stack or pushes and jumps (R103). -/
theorem exec_call_cases (s : State) (nnn : Addr12) :
    (s.stackFull = true ∧ exec (.call nnn) s = .next (s.raise .stackOverflow)) ∨
    (s.stackFull = false ∧ exec (.call nnn) s = .next ((s.setStack (s.pc :: s.stack)).setPc (addrOperand nnn))) := by
  rcases s.pushThen_cases s.pc (fun t => t.setPc (addrOperand nnn)) with ⟨h, e⟩ | ⟨h, e⟩
  · exact .inl ⟨h, congrArg Host.Outcome.next e⟩
  · exact .inr ⟨h, congrArg Host.Outcome.next e⟩

/-- DRW halts out of range, or draws (R140). -/
theorem exec_drw_cases (s : State) (x y : RegIdx) (n : Nibble) :
    (0 < n.toNat ∧ 0x1000 < s.i.toNat + n.toNat ∧ exec (.drw x y n) s = .next (s.raise .memoryOutOfRange)) ∨
    ((n.toNat = 0 ∨ s.i.toNat + n.toNat ≤ 0x1000) ∧ exec (.drw x y n) s =
      .next (((s.setFb (s.spriteDrawn x y n).1).setFlag (s.spriteDrawn x y n).2).present)) := by
  rcases s.checkedRange_cases s.base n.toNat (fun t =>
    ((t.setFb (s.spriteDrawn x y n).1).setFlag (s.spriteDrawn x y n).2).present) with ⟨h, h2, e⟩ | ⟨h, e⟩
  · exact .inl ⟨h, h2, congrArg Host.Outcome.next e⟩
  · exact .inr ⟨h, congrArg Host.Outcome.next e⟩

/-- LD B, VX halts out of range, or stores three digits (R165). -/
theorem exec_ldB_cases (s : State) (x : RegIdx) :
    (0x1000 < s.i.toNat + 3 ∧ exec (.ldB x) s = .next (s.raise .memoryOutOfRange)) ∨
    (s.i.toNat + 3 ≤ 0x1000 ∧ exec (.ldB x) s = .next (State.writeBytes s.i.toNat (bcdDigits (s.reg x)) s)) := by
  rcases s.checkedRange_cases s.base 3 (State.writeBytes s.base (bcdDigits (s.reg x))) with ⟨-, h2, e⟩ | ⟨h, e⟩
  · exact .inl ⟨h2, congrArg Host.Outcome.next e⟩
  · exact .inr ⟨h.resolve_left (by decide), congrArg Host.Outcome.next e⟩

/-- LD [I], VX halts out of range, or stores V0 to VX (R166). -/
theorem exec_ldMemVx_cases (s : State) (x : RegIdx) :
    (0x1000 < s.i.toNat + (x.toNat + 1) ∧ exec (.ldMemVx x) s = .next (s.raise .memoryOutOfRange)) ∨
    (s.i.toNat + (x.toNat + 1) ≤ 0x1000 ∧ exec (.ldMemVx x) s =
      .next (State.writeBytes s.i.toNat (s.firstRegs (x.toNat + 1)) s)) := by
  rcases s.checkedRange_cases s.base (regCount x) (State.writeBytes s.base (s.firstRegs (regCount x))) with
    ⟨-, h2, e⟩ | ⟨h, e⟩
  · exact .inl ⟨h2, congrArg Host.Outcome.next e⟩
  · exact .inr ⟨h.resolve_left (Nat.succ_ne_zero _), congrArg Host.Outcome.next e⟩

/-- LD VX, [I] halts out of range, or loads V0 to VX (R167). -/
theorem exec_ldVxMem_cases (s : State) (x : RegIdx) :
    (0x1000 < s.i.toNat + (x.toNat + 1) ∧ exec (.ldVxMem x) s = .next (s.raise .memoryOutOfRange)) ∨
    (s.i.toNat + (x.toNat + 1) ≤ 0x1000 ∧ exec (.ldVxMem x) s = .next (State.loadRegs s.i.toNat (x.toNat + 1) s)) := by
  rcases s.checkedRange_cases s.base (regCount x) (State.loadRegs s.base (regCount x)) with ⟨-, h2, e⟩ | ⟨h, e⟩
  · exact .inl ⟨h2, congrArg Host.Outcome.next e⟩
  · exact .inr ⟨h.resolve_left (Nat.succ_ne_zero _), congrArg Host.Outcome.next e⟩

/-- How an instruction treats MODE and CAUSE: a fatal fault of one of three kinds, a key wait, or no change (R200, R161). -/
theorem exec_mode_cases {i : Instr} (h : exec i s = .next t) :
    (i = .ret ∧ s.stack = [] ∧ t = s.raise .stackUnderflow) ∨
    ((∃ nnn, i = .call nnn) ∧ s.stackFull = true ∧ t = s.raise .stackOverflow) ∨
    (∃ b n, memAccess i s = some (b, n) ∧ 0 < n ∧ 0x1000 < b + n ∧ t = s.raise .memoryOutOfRange) ∨
    (∃ x, i = .ldVxK x ∧ t = s.suspend x) ∨
    ((∀ x, i ≠ .ldVxK x) ∧ (i = .ret → s.stack ≠ []) ∧ ((∃ nnn, i = .call nnn) → s.stackFull = false) ∧
      (∀ b n, memAccess i s = some (b, n) → n = 0 ∨ b + n ≤ 0x1000) ∧ t.mode = s.mode ∧ t.cause = s.cause) := by
  cases i
  case ret =>
    rcases exec_ret_cases s with ⟨h1, e⟩ | ⟨a, r, h1, e⟩ <;> obtain rfl := Host.Outcome.next.inj (h.symm.trans e)
    · exact .inl ⟨rfl, h1, rfl⟩
    · exact .inr (.inr (.inr (.inr ⟨by simp, by simp [h1], by simp, by simp [memAccess], rfl, rfl⟩)))
  case call nnn =>
    rcases exec_call_cases s nnn with ⟨h1, e⟩ | ⟨h1, e⟩ <;> obtain rfl := Host.Outcome.next.inj (h.symm.trans e)
    · exact .inr (.inl ⟨⟨nnn, rfl⟩, h1, rfl⟩)
    · exact .inr (.inr (.inr (.inr ⟨by simp, by simp, fun _ => h1, by simp [memAccess], rfl, rfl⟩)))
  case drw x y n =>
    rcases exec_drw_cases s x y n with ⟨h1, h2, e⟩ | ⟨h1, e⟩ <;> obtain rfl := Host.Outcome.next.inj (h.symm.trans e)
    · exact .inr (.inr (.inl ⟨_, _, rfl, h1, h2, rfl⟩))
    · exact .inr (.inr (.inr (.inr ⟨by simp, by simp, by simp, by simpa [memAccess] using h1, rfl, rfl⟩)))
  case ldB x =>
    rcases exec_ldB_cases s x with ⟨h2, e⟩ | ⟨h1, e⟩ <;> obtain rfl := Host.Outcome.next.inj (h.symm.trans e)
    · exact .inr (.inr (.inl ⟨_, _, rfl, by decide, h2, rfl⟩))
    · refine .inr (.inr (.inr (.inr ⟨by simp, by simp, by simp, by simpa [memAccess] using h1, ?_, ?_⟩))) <;>
        rw [State.writeBytes_eq]
  case ldMemVx x =>
    rcases exec_ldMemVx_cases s x with ⟨h2, e⟩ | ⟨h1, e⟩ <;> obtain rfl := Host.Outcome.next.inj (h.symm.trans e)
    · exact .inr (.inr (.inl ⟨_, _, rfl, Nat.succ_pos _, h2, rfl⟩))
    · refine .inr (.inr (.inr (.inr ⟨by simp, by simp, by simp, by simpa [memAccess] using h1, ?_, ?_⟩))) <;>
        rw [State.writeBytes_eq]
  case ldVxMem x =>
    rcases exec_ldVxMem_cases s x with ⟨h2, e⟩ | ⟨h1, e⟩ <;> obtain rfl := Host.Outcome.next.inj (h.symm.trans e)
    · exact .inr (.inr (.inl ⟨_, _, rfl, Nat.succ_pos _, h2, rfl⟩))
    · refine .inr (.inr (.inr (.inr ⟨by simp, by simp, by simp, by simpa [memAccess] using h1, ?_, ?_⟩))) <;>
        rw [State.loadRegs_eq]
  case ldVxK x => exact .inr (.inr (.inr (.inl ⟨x, rfl, (Host.Outcome.next.inj h).symm⟩)))
  all_goals
    obtain rfl := Host.Outcome.next.inj h
    refine .inr (.inr (.inr (.inr ⟨by simp, by simp, by simp, by simp [memAccess], ?_, ?_⟩))) <;>
      first | rfl | (rw [State.skipIf_eq]; rfl) | rw [State.setResultAndFlag_eq]

/-! ## What a step can do -/

/-- The word at PC is the fetched word (R91). -/
theorem wordAt_iff (s : State) (w : Word) : WordAt s w ↔ w = s.fetchWord := by
  have h : s.fetchWord.toNat = (s.byte s.pc.toNat).toNat * 256 + (s.byte (s.pc.toNat + 1)).toNat := toNat_concat _ _
  unfold WordAt
  constructor
  · exact fun e => BitVec.eq_of_toNat_eq (e.trans h.symm)
  · rintro rfl
    exact h

theorem fetchFaults_iff (s : State) : s.fetchFaults = true ↔ 0xFFE < s.pc.toNat := by
  refine (outOfRange_iff s.pc.toNat 2).trans ?_
  omega

/-- An input that is next is applied. -/
theorem step_of_input {e : Input} {rest : List Move} (h : s.pending = .input e :: rest) :
    step s = .next ((s.setPending rest).applyInput e) := by
  unfold step nextMove
  rw [h]

theorem step_of_requestNext {rest : List Move} (h : RequestNext s rest) : step s = requestStep (s.setPending rest) := by
  obtain ⟨v, i, pc, stack, dt, phase, st, mem, fb, mode, cause, unk, keys, draws, outputs, pending, params⟩ := s
  rcases h with ⟨h, rfl⟩ | h <;> obtain rfl := h <;> rfl

/-- In RUN a step request fetches and runs (R90). -/
theorem step_of_stepNext {rest : List Move} (h : StepNext s rest) : step s = fetchAndRun (s.setPending rest) := by
  rw [step_of_requestNext h.2]
  unfold requestStep
  rw [State.setPending_mode, h.1]

/-- Every next move is an input, a step request without effect, a fetch out of range, an instruction, or a diagnostic. -/
theorem step_cases (h : step s = .next t) :
    (∃ e rest, s.pending = .input e :: rest ∧ t = (s.setPending rest).applyInput e) ∨
    (∃ rest, RequestNext s rest ∧ s.mode ≠ .run ∧ t = s.setPending rest) ∨
    (∃ rest, StepNext s rest ∧ 0xFFE < s.pc.toNat ∧ t = (s.setPending rest).raise .memoryOutOfRange) ∨
    (∃ rest i, StepNext s rest ∧ s.pc.toNat ≤ 0xFFE ∧ decode s.params.decodeMode s.fetchWord = some i ∧
      exec i (Executing s rest) = .next t) ∨
    (∃ rest, StepNext s rest ∧ s.pc.toNat ≤ 0xFFE ∧ decode s.params.decodeMode s.fetchWord = none ∧
      t = (Executing s rest).diagUnknown s.fetchWord s.pc) := by
  by_cases hin : ∃ e rest, s.pending = .input e :: rest
  · obtain ⟨e, rest, he⟩ := hin
    exact .inl ⟨e, rest, he, (Host.Outcome.next.inj ((step_of_input he).symm.trans h)).symm⟩
  · obtain ⟨rest, hr⟩ : ∃ rest, RequestNext s rest := by
      cases hp : s.pending with
      | nil => exact ⟨[], .inl ⟨hp, rfl⟩⟩
      | cons m rest =>
        cases m with
        | stepRequest => exact ⟨rest, .inr hp⟩
        | input e => exact absurd ⟨e, rest, hp⟩ hin
    refine .inr ?_
    by_cases hm : s.mode = .run
    · have hs : StepNext s rest := ⟨hm, hr⟩
      rw [step_of_stepNext hs] at h
      unfold fetchAndRun at h
      rw [show (s.setPending rest).fetchFaults = s.fetchFaults from rfl] at h
      by_cases hf : 0xFFE < s.pc.toNat
      · rw [if_pos ((fetchFaults_iff s).mpr hf)] at h
        exact .inr (.inl ⟨rest, hs, hf, (Host.Outcome.next.inj h).symm⟩)
      · rw [if_neg (fun e => hf ((fetchFaults_iff s).mp e))] at h
        unfold runWord at h
        rw [show (s.setPending rest).fetchWord = s.fetchWord from rfl,
          show (s.setPending rest).advancePc.params = s.params from rfl] at h
        cases hd : decode s.params.decodeMode s.fetchWord with
        | some i =>
          rw [hd] at h
          exact .inr (.inr (.inl ⟨rest, i, hs, Nat.le_of_not_lt hf, rfl, h⟩))
        | none =>
          rw [hd] at h
          exact .inr (.inr (.inr ⟨rest, hs, Nat.le_of_not_lt hf, rfl, (Host.Outcome.next.inj h).symm⟩))
    · refine .inl ⟨rest, hr, hm, ?_⟩
      rw [step_of_requestNext hr] at h
      unfold requestStep at h
      cases hmm : s.mode with
      | run => exact absurd hmm hm
      | waitKey x =>
        rw [State.setPending_mode, hmm] at h
        exact (Host.Outcome.next.inj h).symm
      | halt =>
        rw [State.setPending_mode, hmm] at h
        exact (Host.Outcome.next.inj h).symm

end Sys2Proof.Machine
end

