-- ==== Sys2Proof/Tests/Slice0.lean ====
section
/-! SUPPORT. Tests of the model, expected values from the spec's tables and vectors, and a witness for every obligation that
has hypotheses. -/

namespace Sys2Proof.Machine

/-! ## Well-formedness -/

theorem test_wf_stack_depth_zero_refused : Params.wellFormed { defaultParams with stackDepth := some 0 } = false := by decide
theorem test_wf_no_time_unit_refused : Params.wellFormed { defaultParams with unitsPerTick := 0 } = false := by decide
theorem test_wf_unbounded_stack : Params.wellFormed { defaultParams with stackDepth := none } = true := by decide
/-- Vector S9: 3585 bytes are too large, 3584 are not. -/
theorem test_wf_image_3585_refused :
    imageFits (List.replicate 3585 0#8) = false ∧ imageFits (List.replicate 3584 0#8) = true := by
  constructor <;> unfold imageFits <;> rw [List.length_replicate] <;> decide

/-! ## Decoding: words written out from the map of R75, pattern by pattern -/

theorem test_decode_control_flow :
    decode .strict 0x00E0#16 = some .cls ∧ decode .strict 0x00EE#16 = some .ret ∧
    decode .strict 0x1ABC#16 = some (.jp 0xABC#12) ∧ decode .strict 0x2300#16 = some (.call 0x300#12) ∧
    decode .strict 0x3342#16 = some (.seImm 3#4 0x42#8) ∧ decode .strict 0x4342#16 = some (.sneImm 3#4 0x42#8) ∧
    decode .strict 0x5120#16 = some (.seReg 1#4 2#4) ∧ decode .strict 0x9120#16 = some (.sneReg 1#4 2#4) ∧
    decode .strict 0xBFFF#16 = some (.jpV0 0xFFF#12) := by decide
theorem test_decode_immediate :
    decode .strict 0x6A7F#16 = some (.ldImm 0xA#4 0x7F#8) ∧ decode .strict 0x71FF#16 = some (.addImm 1#4 0xFF#8) := by decide
theorem test_decode_alu :
    decode .strict 0x8120#16 = some (.ldReg 1#4 2#4) ∧ decode .strict 0x8121#16 = some (.orReg 1#4 2#4) ∧
    decode .strict 0x8122#16 = some (.andReg 1#4 2#4) ∧ decode .strict 0x8123#16 = some (.xorReg 1#4 2#4) ∧
    decode .strict 0x8124#16 = some (.addReg 1#4 2#4) ∧ decode .strict 0x8125#16 = some (.subReg 1#4 2#4) ∧
    decode .strict 0x8126#16 = some (.shr 1#4 2#4) ∧ decode .strict 0x8127#16 = some (.subn 1#4 2#4) ∧
    decode .strict 0x812E#16 = some (.shl 1#4) := by decide
theorem test_decode_address_random_draw_key :
    decode .strict 0xA2F0#16 = some (.ldI 0x2F0#12) ∧ decode .strict 0xC30F#16 = some (.rnd 3#4 0x0F#8) ∧
    decode .strict 0xD125#16 = some (.drw 1#4 2#4 5#4) ∧ decode .strict 0xE59E#16 = some (.skp 5#4) ∧
    decode .strict 0xE5A1#16 = some (.sknp 5#4) := by decide
theorem test_decode_family_f :
    decode .strict 0xF107#16 = some (.ldVxDt 1#4) ∧ decode .strict 0xF20A#16 = some (.ldVxK 2#4) ∧
    decode .strict 0xF015#16 = some (.ldDtVx 0#4) ∧ decode .strict 0xF118#16 = some (.ldStVx 1#4) ∧
    decode .strict 0xF21E#16 = some (.addI 2#4) ∧ decode .strict 0xF429#16 = some (.ldF 4#4) ∧
    decode .strict 0xF033#16 = some (.ldB 0#4) ∧ decode .strict 0xF355#16 = some (.ldMemVx 3#4) ∧
    decode .strict 0xF265#16 = some (.ldVxMem 2#4) := by decide
/-- R74, R80: fixed bits that do not match, and what `lax` makes of them. -/
theorem test_decode_unknown :
    decode .strict 0x0123#16 = none ∧ decode .strict 0x01E0#16 = none ∧ decode .lax 0x01E0#16 = some .cls ∧
    decode .lax 0x5121#16 = some (.seReg 1#4 2#4) ∧ decode .lax 0x8128#16 = none ∧ decode .strict 0xF1FF#16 = none := by decide
/-- R52: the first byte of an instruction is the high byte of its word. -/
theorem test_decode_bytes :
    decodeBytes .strict [0x12#8, 0x34#8, 0x56#8] = .ok (.jp 0x234#12, [0x56#8]) ∧ encodeBytes (.jp 0x234#12) = [0x12#8, 0x34#8] ∧
    decodeTableWord 16 0x8AB4 = some (.addReg 0xA#4 0xB#4) := ⟨rfl, by decide, by decide⟩
theorem test_decode_bytes_refused_by_name :
    decodeBytes .strict [] = .error .truncated ∧ decodeBytes .strict [0x12#8] = .error .truncated ∧
    decodeBytes .strict [0x51#8, 0x21#8] = .error (.unknownOpcode 0x5121#16) := ⟨rfl, rfl, rfl⟩

/-! ## One step: the vectors of 95_test_vectors.md, named as there -/

/-- The state after one step of `s` with the word `w` placed at its PC. -/
def ran (s : State) (w : Word) : State :=
  match step (State.writeBytes s.pc.toNat (bytesOfWord w) s) with
  | .next t => t
  | .fault _ => s
  | .refused _ => s

/-- Reset with V1 and V2 set. -/
def withV1V2 (a b : Byte) : State := (State.reset.setReg 1#4 a).setReg 2#4 b

/-- Reset with I and V0 set. -/
def withIV0 (i : Word) (a : Byte) : State := (State.reset.setI i).setReg 0#4 a

/-- Reset with V5 set and every key in the state `down`. -/
def withKeys (k : Byte) (down : Bool) : State :=
  { State.reset.setReg 5#4 k with keys := Vector.replicate 16 down }

theorem test_TS1_zero_word : (ran State.reset 0x0000#16).unk = true ∧ (ran State.reset 0x0000#16).pc = 0x202#16 ∧
    (ran State.reset 0x0000#16).outputs = [.unknownOpcode 0x0000#16 0x200#16] := by decide
theorem test_TS2_top_of_memory : (ran (State.reset.setPc 0xFFE#16) 0x602A#16).pc = 0x1000#16 ∧
    (ran (State.reset.setPc 0xFFE#16) 0x602A#16).reg 0#4 = 0x2A#8 := by decide
theorem test_TS4_fetch_out_of_range : (ran (State.reset.setPc 0xFFF#16) 0x6000#16).mode = .halt ∧
    (ran (State.reset.setPc 0xFFF#16) 0x6000#16).cause.code = 3 ∧
    (ran (State.reset.setPc 0xFFF#16) 0x6000#16).pc = 0xFFF#16 := by decide
theorem test_TS5_odd_address : (ran (State.reset.setPc 0x201#16) 0x6107#16).reg 1#4 = 0x07#8 ∧
    (ran (State.reset.setPc 0x201#16) 0x6107#16).pc = 0x203#16 := by decide
theorem test_TC1_cls : (ran ((State.reset.setReg VF 1#8).setFb (toggle blankFramebuffer 5 3).1) 0x00E0#16).pixel 5 3 = false ∧
    (ran ((State.reset.setReg VF 1#8).setFb (toggle blankFramebuffer 5 3).1) 0x00E0#16).reg VF = 1#8 := by decide
theorem test_TC2_ret_empty : (ran State.reset 0x00EE#16).cause.code = 1 ∧ (ran State.reset 0x00EE#16).pc = 0x202#16 := by decide
theorem test_TC3_ret : (ran (State.reset.setStack [0x0ABC#16, 0x0456#16]) 0x00EE#16).pc = 0x0ABC#16 ∧
    (ran (State.reset.setStack [0x0ABC#16, 0x0456#16]) 0x00EE#16).stack = [0x0456#16] := by decide
theorem test_TC4_jp : (ran State.reset 0x1FFF#16).pc = 0x0FFF#16 := by decide
theorem test_TC6_call_full : (ran (State.reset.setStack (List.replicate 16 0#16)) 0x2300#16).cause.code = 2 ∧
    (ran (State.reset.setStack (List.replicate 16 0#16)) 0x2300#16).pc = 0x202#16 := by decide
theorem test_TC7_call : (ran (State.reset.setStack (List.replicate 15 0#16)) 0x2300#16).pc = 0x300#16 ∧
    (ran (State.reset.setStack (List.replicate 15 0#16)) 0x2300#16).stack = 0x202#16 :: List.replicate 15 0#16 := by decide
theorem test_TC8_se_imm : (ran (State.reset.setReg 3#4 0x42#8) 0x3342#16).pc = 0x204#16 := by decide
theorem test_TC10_sne_imm : (ran (State.reset.setReg 3#4 0x42#8) 0x4342#16).pc = 0x202#16 := by decide
theorem test_TC13_se_reg : (ran (withV1V2 7#8 8#8) 0x5120#16).pc = 0x202#16 := by decide
theorem test_TC15_sne_reg : (ran (withV1V2 7#8 8#8) 0x9120#16).pc = 0x204#16 := by decide
theorem test_TC18_jp_v0 : (ran (State.reset.setReg 0#4 0xFF#8) 0xBFFF#16).pc = 0x10FE#16 := by decide
theorem test_TI2_ld_imm : (ran State.reset 0x6FAB#16).reg VF = 0xAB#8 := by decide
theorem test_TI3_add_imm : (ran (withV1V2 0xFE#8 0#8) 0x7103#16).reg 1#4 = 0x01#8 ∧
    (ran (withV1V2 0xFE#8 0#8) 0x7103#16).reg VF = 0#8 := by decide
theorem test_TA1_ld : (ran (withV1V2 0#8 0x5A#8) 0x8120#16).reg 1#4 = 0x5A#8 := by decide
theorem test_TA2_or : (ran ((withV1V2 0xF0#8 0x0F#8).setReg VF 1#8) 0x8121#16).reg 1#4 = 0xFF#8 ∧
    (ran ((withV1V2 0xF0#8 0x0F#8).setReg VF 1#8) 0x8121#16).reg VF = 1#8 := by decide
theorem test_TA3_and : (ran (withV1V2 0xF0#8 0x3C#8) 0x8122#16).reg 1#4 = 0x30#8 := by decide
theorem test_TA4_xor : (ran (withV1V2 0xF0#8 0x3C#8) 0x8123#16).reg 1#4 = 0xCC#8 := by decide
theorem test_TA6_add : (ran (withV1V2 0xFF#8 0x01#8) 0x8124#16).reg 1#4 = 0#8 ∧
    (ran (withV1V2 0xFF#8 0x01#8) 0x8124#16).reg VF = 1#8 := by decide
theorem test_TA10_add_into_vf : (ran ((withV1V2 1#8 0#8).setReg VF 0xFF#8) 0x8F14#16).reg VF = 1#8 ∧
    (ran { (withV1V2 1#8 0#8).setReg VF 0xFF#8 with params := { defaultParams with vfOrder := .resultLast } } 0x8F14#16).reg VF = 0#8 := by
  decide
theorem test_TA11_sub : (ran (withV1V2 0x05#8 0x0A#8) 0x8125#16).reg 1#4 = 0x05#8 ∧
    (ran (withV1V2 0x05#8 0x0A#8) 0x8125#16).reg VF = 0#8 := by decide
theorem test_TA13_sub_equal : (ran (withV1V2 0x33#8 0x33#8) 0x8125#16).reg VF = 1#8 := by decide
theorem test_TA19_shr : (ran (withV1V2 0x01#8 0xB6#8) 0x8126#16).reg 1#4 = 0x5B#8 ∧
    (ran (withV1V2 0x01#8 0xB6#8) 0x8126#16).reg VF = 1#8 := by decide
theorem test_TA21_shr_from_vf : (ran ((withV1V2 0x01#8 0#8).setReg VF 0x08#8) 0x81F6#16).reg 1#4 = 0x04#8 := by decide
theorem test_TA23_subn : (ran (withV1V2 0x0A#8 0x05#8) 0x8127#16).reg 1#4 = 0xFB#8 ∧
    (ran (withV1V2 0x0A#8 0x05#8) 0x8127#16).reg VF = 0#8 := by decide
theorem test_TA24_subn_equal : (ran (withV1V2 0x33#8 0x33#8) 0x8127#16).reg VF = 0#8 := by decide
theorem test_TA27_shl : (ran (withV1V2 0x7F#8 0xFF#8) 0x812E#16).reg 1#4 = 0xFE#8 ∧
    (ran (withV1V2 0x7F#8 0xFF#8) 0x812E#16).reg VF = 0#8 := by decide
theorem test_TD1_ld_i : (ran (State.reset.setI 0xFFFF#16) 0xA2F0#16).i = 0x02F0#16 := by decide
theorem test_TD4_add_i : (ran ((withV1V2 0#8 0xFF#8).setI 0x0F00#16) 0xF21E#16).i = 0x0FFF#16 ∧
    (ran ((withV1V2 0#8 0xFF#8).setI 0x0F00#16) 0xF21E#16).reg VF = 0#8 := by decide
theorem test_TD6_add_i_wraps : (ran ((withV1V2 0#8 1#8).setI 0xFFFF#16) 0xF21E#16).i = 0#16 ∧
    (ran ((withV1V2 0#8 1#8).setI 0xFFFF#16) 0xF21E#16).reg VF = 1#8 := by decide
theorem test_TD9_ld_f : (ran (State.reset.setReg 4#4 0x1A#8) 0xF429#16).i = 0x0032#16 := by decide
/-- TN2: the byte drawn is free, the masked bits are not. -/
theorem test_TN2_rnd : (ran State.reset 0xC300#16).reg 3#4 = 0#8 := BitVec.and_zero
theorem test_rnd_counts_draw : (ran State.reset 0xC3FF#16).draws = 1 := rfl
theorem test_TW5_drw_wraps :
    (ran ((((withIV0 0x300#16 62#8).setReg 1#4 31#8).setByte 0x300 0xFF#8).setByte 0x301 0x81#8) 0xD012#16).pixel 5 0 = true ∧
    (ran ((((withIV0 0x300#16 62#8).setReg 1#4 31#8).setByte 0x300 0xFF#8).setByte 0x301 0x81#8) 0xD012#16).pixel 6 31 = false := by
  decide
theorem test_TW3_drw_collision :
    (ran (((withIV0 0x300#16 0#8).setByte 0x300 0x80#8).setFb (toggle blankFramebuffer 0 0).1) 0xD011#16).reg VF = 1#8 ∧
    (ran (((withIV0 0x300#16 0#8).setByte 0x300 0x80#8).setFb (toggle blankFramebuffer 0 0).1) 0xD011#16).pixel 0 0 = false := by
  decide
theorem test_TK1_skp : (ran (withKeys 0x0A#8 true) 0xE59E#16).pc = 0x204#16 := by decide
theorem test_TK5_skp_index_26 : (ran (withKeys 0x1A#8 true) 0xE59E#16).pc = 0x202#16 := by decide
theorem test_TK3_sknp : (ran (withKeys 0x0A#8 true) 0xE5A1#16).pc = 0x202#16 := by decide
theorem test_TK6_sknp_index_26 : (ran (withKeys 0x1A#8 true) 0xE5A1#16).pc = 0x204#16 := by decide
theorem test_ld_vx_dt : (ran { State.reset with dt := 18#8 } 0xF307#16).reg 3#4 = 18#8 := by decide
theorem test_TM5_ld_dt : (ran { State.reset.setReg 0#4 200#8 with dt := 5#8, phase := 40 } 0xF015#16).dt = 200#8 ∧
    (ran { State.reset.setReg 0#4 200#8 with dt := 5#8, phase := 40 } 0xF015#16).phase = 0 := by decide
theorem test_TM6_ld_st : (ran (State.reset.setReg 1#4 5#8) 0xF118#16).st = 5#8 := by decide
theorem test_TM8_key_wait : (ran State.reset 0xF20A#16).mode = .waitKey 2#4 ∧ (ran State.reset 0xF20A#16).pc = 0x202#16 := by decide
theorem test_TM9_key_delivered :
    step { State.reset with mode := .waitKey 2#4, pending := [.input (.deliver 7)] } =
      .next (State.reset.setReg 2#4 7#8) := rfl
theorem test_TM2_thirty_ticks : (({ State.reset with dt := 30#8 }).elapse 3000).dt = 0#8 ∧
    (({ State.reset with dt := 30#8 }).elapse 2999).dt = 1#8 := by decide
theorem test_TM11_tick_in_halt : step { State.reset with mode := .halt, cause := .stackOverflow, dt := 3#8, pending := [.input (.elapse 100)] } =
    .next { State.reset with mode := .halt, cause := .stackOverflow, dt := 2#8 } := rfl
theorem test_TB1_bcd : let t := ran (withIV0 0x300#16 123#8) 0xF033#16
    (t.byte 0x300, t.byte 0x301, t.byte 0x302, t.i) = (1#8, 2#8, 3#8, 0x300#16) := by decide
theorem test_TB7_bcd_out_of_range : (ran (withIV0 0xFFE#16 255#8) 0xF033#16).cause.code = 3 ∧
    (ran (withIV0 0xFFE#16 255#8) 0xF033#16).byte 0xFFE = 0#8 := by decide
theorem test_TB15_store_over_itself : (ran (withIV0 0x200#16 0x12#8) 0xF155#16).fetchWord = 0#16 ∧
    (ran (withIV0 0x200#16 0x12#8) 0xF155#16).byte 0x200 = 0x12#8 := by decide
theorem test_TB11_store_out_of_range : (ran (withIV0 0xFF1#16 0#8) 0xFF55#16).mode = .halt := by decide
theorem test_TB13_load_font : let t := ran State.reset 0xF465#16
    (t.reg 0#4, t.reg 1#4, t.reg 4#4, t.reg 5#4) = (0xF0#8, 0x90#8, 0xF0#8, 0#8) := by decide
theorem test_TB14_load_out_of_range : (ran (withIV0 0xFFE#16 0x77#8) 0xF265#16).cause.code = 3 ∧
    (ran (withIV0 0xFFE#16 0x77#8) 0xF265#16).reg 0#4 = 0x77#8 := by decide
theorem test_TL1_reset_memory : State.reset.byte 0 = 0xF0#8 ∧ State.reset.byte 0x4F = 0x80#8 ∧ State.reset.byte 0x50 = 0#8 := by decide
theorem test_TL5_load_nothing : State.reset.load [] = State.reset := rfl
/-- The host's placement of a word: the next step runs it. -/
theorem test_with_fetch_word : ((State.reset.withFetchWord 16 0x6A7F).fetchWord, (State.reset.withFetchWord 16 0x6A7F).pc) =
    (0x6A7F#16, 0x200#16) := by decide

/-! ## Witnesses: a state and operands that meet the hypotheses of each obligation -/

theorem witness_RetPopsNewestOrHalts_pops : (State.reset.setStack [0xABC#16, 0x456#16]).stack = 0xABC#16 :: [0x456#16] := rfl
theorem witness_RetPopsNewestOrHalts_halts : State.reset.stack = [] := rfl
theorem witness_CallPushesAdvancedPcOrHalts_pushes :
    (State.reset.setStack (List.replicate 15 0#16)).stackFits ∧
    ∀ d, (State.reset.setStack (List.replicate 15 0#16)).params.stackDepth = some d →
      (State.reset.setStack (List.replicate 15 0#16)).stack.length ≠ d := by
  constructor <;> intro d h <;> obtain rfl : 16 = d := Option.some.inj h <;> decide
theorem witness_CallPushesAdvancedPcOrHalts_unbounded :
    let s := State.resetWith { defaultParams with stackDepth := none }
    s.stackFits ∧ ∀ d, s.params.stackDepth = some d → s.stack.length ≠ d := by
  constructor <;> intro d h <;> cases h
theorem witness_CallPushesAdvancedPcOrHalts_halts :
    let s := State.reset.setStack (List.replicate 16 0#16)
    s.stackFits ∧ s.params.stackDepth = some 16 ∧ s.stack.length = 16 := by
  refine ⟨?_, rfl, rfl⟩
  intro d h
  obtain rfl : 16 = d := Option.some.inj h
  decide
theorem witness_SkipsOnImmediate_equal_and_different :
    (State.reset.reg 1#4 = 0#8) ∧ ¬ (State.reset.reg 1#4 = 1#8) := by decide
theorem witness_SkipsOnRegisters_equal_and_different :
    (withV1V2 7#8 7#8).reg 1#4 = (withV1V2 7#8 7#8).reg 2#4 ∧ ¬ ((withV1V2 7#8 8#8).reg 1#4 = (withV1V2 7#8 8#8).reg 2#4) := by
  decide
theorem witness_ResultAndFlag_destination_is_vf :
    (15#4 : RegIdx) = VF ∧ (1#4 : RegIdx) ≠ VF ∧ State.reset.params.vfOrder = .flagLast ∧
    (State.resetWith { defaultParams with vfOrder := .resultLast }).params.vfOrder = .resultLast := by decide
theorem witness_RndMasksTheFreeByte_masked_bit : (0x0F#8).getLsbD 7 = false := by decide

/-- A row of one pixel at the last address of memory, over a set pixel at (0, 0) or a blank framebuffer. -/
def spriteAtEnd (fb : Framebuffer) : State := ((State.reset.setI 0xFFF#16).setByte 0xFFF 0x80#8).setFb fb

theorem witness_DrwXorsSpriteIntoFramebuffer_in_range : InRange (spriteAtEnd blankFramebuffer).i.toNat (1#4).toNat :=
  .inr (by decide)
theorem witness_DrwXorsSpriteIntoFramebuffer_no_rows : InRange (State.reset.setI 0xFFFF#16).i.toNat (0#4).toNat := .inl rfl
theorem witness_DrwXorsSpriteIntoFramebuffer_collision :
    SpriteCovers (spriteAtEnd (toggle blankFramebuffer 0 0).1) 0#4 1#4 1#4 0 0 ∧
    (spriteAtEnd (toggle blankFramebuffer 0 0).1).pixel 0 0 = true :=
  ⟨⟨0, 0, by decide⟩, by decide⟩
theorem witness_DrwXorsSpriteIntoFramebuffer_no_collision :
    ∀ p q, SpriteCovers (spriteAtEnd blankFramebuffer) 0#4 1#4 1#4 p q → (spriteAtEnd blankFramebuffer).pixel p q = false := by
  intro p q _
  show (blankFramebuffer[q])[p] = false
  simp [blankFramebuffer]
theorem witness_DrwXorsSpriteIntoFramebuffer_out_of_range :
    0 < (2#4).toNat ∧ (State.reset.setI 0xFFF#16).i.toNat + (2#4).toNat - 1 > 0xFFF := by decide
theorem witness_DrwTwiceRestoresThePicture :
    (0#4 : RegIdx) ≠ VF ∧ (1#4 : RegIdx) ≠ VF ∧ InRange (spriteAtEnd blankFramebuffer).i.toNat (1#4).toNat ∧
    (∀ p q, (spriteAtEnd blankFramebuffer).pixel p q = false) ∧
    ∃ p q, SpriteCovers (spriteAtEnd blankFramebuffer) 0#4 1#4 1#4 p q := by
  refine ⟨by decide, by decide, .inr (by decide), ?_, 0, 0, 0, 0, by decide⟩
  intro p q
  show (blankFramebuffer[q])[p] = false
  simp [blankFramebuffer]
theorem witness_KeySkipsAreOpposite_pressed : KeyDown (withKeys 0x0F#8 true) ((withKeys 0x0F#8 true).reg 5#4) :=
  ⟨by decide, by decide⟩
theorem witness_KeySkipsAreOpposite_released : ¬ KeyDown (withKeys 0x0F#8 false) ((withKeys 0x0F#8 false).reg 5#4) :=
  by
  rintro ⟨h, e⟩
  revert h
  decide
theorem witness_KeySkipsAreOpposite_index_16 : ¬ KeyDown (withKeys 0x10#8 true) ((withKeys 0x10#8 true).reg 5#4) :=
  fun ⟨h, _⟩ => absurd h (by decide)
theorem witness_SoundTimerIsStoredOnly_step :
    let s := State.writeBytes 0x200 [0xF1#8, 0x18#8] (State.reset.setReg 1#4 5#8)
    step s = .next (ran (State.reset.setReg 1#4 5#8) 0xF118#16) ∧ (ran (State.reset.setReg 1#4 5#8) 0xF118#16).st ≠ s.st :=
  ⟨rfl, by decide⟩
theorem witness_SoundTimerIsStoredOnly_other :
    Input.elapse 100 ≠ .reset ∧ (∀ x, Instr.cls ≠ .ldStVx x) ∧ exec .cls State.reset = .next State.reset.clear :=
  ⟨by decide, fun _ => Instr.noConfusion, rfl⟩
theorem witness_DelayTimerReadAfterElapsedTime :
    State.reset.params.wellFormed = true ∧ exec (.ldDtVx 0#4) State.reset = .next (State.reset.setDt 0#8) := ⟨by decide, rfl⟩
theorem witness_TickCountsDownToZero : 0 < ({ State.reset with dt := 1#8 } : State).dt.toNat ∧ State.reset.dt = 0#8 := by decide

/-- The reset state with one pending input has the invariant. -/
theorem inv_reset_pending (l : List Move) : ({ State.reset with pending := l } : State).Inv where
  paramsWf := by show defaultParams.wellFormed = true; decide
  memWf := rfl
  stackWf := fun _ _ => Nat.zero_le _
  causeWf := ⟨fun _ => Mode.noConfusion, fun _ => rfl⟩
  phaseWf := by show 0 < 100; decide

theorem witness_SixtyTicksASecond :
    let s := { State.reset with pending := [.input (.elapse (60 * State.reset.params.unitsPerTick))] }
    s.Inv ∧ s.pending = .input (.elapse (60 * s.params.unitsPerTick)) :: [] := ⟨inv_reset_pending _, rfl⟩
theorem witness_DelayTimerNeverIncreases :
    let s := State.writeBytes 0x200 [0xF0#8, 0x15#8] (State.reset.setReg 0#4 30#8)
    step s = .next (ran (State.reset.setReg 0#4 30#8) 0xF015#16) ∧ s.dt.toNat < (ran (State.reset.setReg 0#4 30#8) 0xF015#16).dt.toNat :=
  ⟨rfl, by decide⟩

/-- WAITKEY(15) with the pending moves `l`. -/
def waiting (l : List Move) : State := { State.reset with mode := .waitKey 15#4, pending := l }

theorem witness_KeyWaitSuspendsAndCompletes :
    (waiting [.input (.deliver 15)]).mode = .waitKey 15#4 ∧
    (waiting [.input (.deliver 15)]).pending = .input (.deliver 15) :: [] := ⟨rfl, rfl⟩
theorem witness_KeyWaitEndsOnlyByKeyOrReset :
    (waiting [.stepRequest]).mode = .waitKey 15#4 ∧ step (waiting [.stepRequest]) = .next (waiting []) ∧
    (∀ k rest, (waiting [.stepRequest]).pending ≠ .input (.deliver k) :: rest) ∧
    (∀ rest, (waiting [.stepRequest]).pending ≠ .input .reset :: rest) ∧ RequestNext (waiting [.stepRequest]) [] :=
  ⟨rfl, rfl, (by intro k r h; cases h), (by intro r h; cases h), .inr rfl⟩
theorem witness_KeyWaitEndsOnlyByKeyOrReset_load :
    step (waiting [.input (.load [1#8])]) = .next (waiting []) ∧
    (∀ k rest, (waiting [.input (.load [1#8])]).pending ≠ .input (.deliver k) :: rest) ∧
    (∀ rest, (waiting [.input (.load [1#8])]).pending ≠ .input .reset :: rest) :=
  ⟨rfl, (by intro k r h; cases h), (by intro r h; cases h)⟩
theorem witness_BcdStoresThreeDigits :
    Memory.wf (State.reset.setI 0xFFD#16).params.font (State.reset.setI 0xFFD#16).mem = true ∧
    (State.reset.setI 0xFFD#16).i.toNat + 2 ≤ 0xFFF ∧ (State.reset.setI 0xFFE#16).i.toNat + 2 > 0xFFF := by decide
theorem witness_BulkStoreWritesRegisters :
    Memory.wf (State.reset.setI 0xFF0#16).params.font (State.reset.setI 0xFF0#16).mem = true ∧
    (State.reset.setI 0xFF0#16).i.toNat + (15#4).toNat ≤ 0xFFF ∧ (State.reset.setI 0xFF1#16).i.toNat + (15#4).toNat > 0xFFF := by
  decide
theorem witness_BulkLoadReadsMemory :
    (State.reset.setI 0xFFF#16).i.toNat + (0#4).toNat ≤ 0xFFF ∧ (State.reset.setI 0xFFE#16).i.toNat + (2#4).toNat > 0xFFF := by
  decide
theorem witness_BulkStoreThenLoadRestoresRegisters :
    Memory.wf (State.reset.setI 0x400#16).params.font (State.reset.setI 0x400#16).mem = true ∧
    (State.reset.setI 0x400#16).i.toNat + (3#4).toNat ≤ 0xFFF := by decide
theorem witness_FatalFaultsExactly_underflow :
    State.reset.mode = .run ∧ exec .ret State.reset = .next (State.reset.raise .stackUnderflow) := ⟨rfl, rfl⟩
theorem witness_FatalFaultsExactly_overflow :
    let s := State.reset.setStack (List.replicate 16 0#16)
    s.mode = .run ∧ exec (.call 0x300#12) s = .next (s.raise .stackOverflow) := ⟨rfl, rfl⟩
theorem witness_FatalFaultsExactly_out_of_range :
    let s := State.reset.setI 0xFFE#16
    s.mode = .run ∧ exec (.ldB 0#4) s = .next (s.raise .memoryOutOfRange) ∧ memAccess (.ldB 0#4) s = some (0xFFE, 3) :=
  ⟨rfl, rfl, rfl⟩
theorem witness_FatalFaultsArePrecise_instruction :
    State.reset.mode = .run ∧ exec .ret State.reset = .next (State.reset.raise .stackUnderflow) ∧
    (State.reset.raise .stackUnderflow).mode = .halt := ⟨rfl, rfl, rfl⟩
theorem witness_FatalFaultsArePrecise_fetch : StepNext (State.reset.setPc 0xFFF#16) [] ∧ 0xFFE < (State.reset.setPc 0xFFF#16).pc.toNat :=
  ⟨⟨rfl, .inl ⟨rfl, rfl⟩⟩, by decide⟩
theorem witness_VfIsWrittenByNoOther_flag :
    exec (.addReg 1#4 2#4) State.reset = .next (State.reset.setResultAndFlag 1#4 0#8 false) ∧ writesFlag (.addReg 1#4 2#4) = true ∧
    State.reset.mode = .run ∧ (State.reset.setResultAndFlag 1#4 0#8 false).mode = .run ∧ VF ∉ destinations (.addReg 1#4 2#4) :=
  ⟨rfl, rfl, rfl, rfl, by decide⟩
theorem witness_VfIsWrittenByNoOther_other :
    exec (.ldImm 1#4 5#8) State.reset = .next (State.reset.setReg 1#4 5#8) ∧ VF ∉ destinations (.ldImm 1#4 5#8) ∧
    writesFlag (.ldImm 1#4 5#8) = false := ⟨rfl, by decide, rfl⟩
theorem witness_WhichInstructionsWriteWhat : exec (.ldImm 1#4 5#8) State.reset = .next (State.reset.setReg 1#4 5#8) ∧
    Instr.ldImm 1#4 5#8 ≠ .ret ∧ Instr.ldImm 1#4 5#8 ≠ .cls ∧ (∀ nnn, Instr.ldImm 1#4 5#8 ≠ .call nnn) ∧
    (∀ x y n, Instr.ldImm 1#4 5#8 ≠ .drw x y n) ∧ (∀ x, Instr.ldImm 1#4 5#8 ≠ .ldB x) ∧ (∀ x, Instr.ldImm 1#4 5#8 ≠ .ldMemVx x) ∧
    (∀ nnn, Instr.ldImm 1#4 5#8 ≠ .ldI nnn) ∧ (∀ x, Instr.ldImm 1#4 5#8 ≠ .addI x) ∧ (∀ x, Instr.ldImm 1#4 5#8 ≠ .ldF x) ∧
    (∀ x, Instr.ldImm 1#4 5#8 ≠ .ldDtVx x) ∧ (∀ n, Instr.ldImm 1#4 5#8 ≠ .jp n) := by
  refine ⟨rfl, ?_, ?_, ?_, ?_, ?_, ?_, ?_, ?_, ?_, ?_, ?_⟩ <;> intros <;> exact Instr.noConfusion

/-- The bytes 62 07 (LD V2, 0x07) at the last address an instruction can be fetched from. -/
def loadV2 : State := State.writeBytes 0xFFE [0x62#8, 0x07#8] (State.reset.setPc 0xFFE#16)

theorem witness_StepRunsTheDecodedInstruction_known :
    StepNext loadV2 [] ∧ loadV2.pc.toNat ≤ 0xFFE ∧ WordAt loadV2 0x6207#16 ∧
    decode loadV2.params.decodeMode 0x6207#16 = some (.ldImm 2#4 0x07#8) :=
  ⟨⟨rfl, .inl ⟨rfl, rfl⟩⟩, by decide, by unfold WordAt; decide, by decide⟩
theorem witness_StepRunsTheDecodedInstruction_unknown :
    StepNext State.reset [] ∧ State.reset.pc.toNat ≤ 0xFFE ∧ WordAt State.reset 0#16 ∧
    decode State.reset.params.decodeMode 0#16 = none :=
  ⟨⟨rfl, .inl ⟨rfl, rfl⟩⟩, by decide, by unfold WordAt; decide, by decide⟩
theorem witness_StepRunsTheDecodedInstruction_fetch_fault :
    StepNext (State.reset.setPc 0xFFF#16) [] ∧ 0xFFE < (State.reset.setPc 0xFFF#16).pc.toNat :=
  ⟨⟨rfl, .inl ⟨rfl, rfl⟩⟩, by decide⟩
theorem witness_UnknownEncodingIsDiagnosticNoOp :
    StepNext State.reset [] ∧ State.reset.pc.toNat ≤ 0xFFE ∧ WordAt State.reset 0#16 ∧
    decode State.reset.params.decodeMode 0#16 = none :=
  ⟨⟨rfl, .inl ⟨rfl, rfl⟩⟩, by decide, by unfold WordAt; decide, by decide⟩
theorem witness_StepEndsInOneOfThreeWays : StepNext { State.reset with pending := [.stepRequest, .input .reset] } [.input .reset] :=
  ⟨rfl, .inr rfl⟩

/-- Halted by an empty stack, with the pending moves `l`. -/
def haltedWith (l : List Move) : State := { State.reset with mode := .halt, cause := .stackUnderflow, pending := l }

theorem witness_HaltIsLeftByResetOnly_request : (haltedWith []).mode = .halt ∧ RequestNext (haltedWith []) [] :=
  ⟨rfl, .inl ⟨rfl, rfl⟩⟩
theorem witness_HaltIsLeftByResetOnly_tick : ({ haltedWith [] with dt := 1#8 } : State).mode = .halt ∧
    0 < ({ haltedWith [] with dt := 1#8 } : State).dt.toNat := ⟨rfl, by decide⟩
theorem witness_HaltIsLeftByResetOnly_time :
    (haltedWith [.input (.elapse 1)]).pending = .input (.elapse 1) :: [] ∧
    step (haltedWith [.input (.elapse 0)]) = .next (haltedWith []) ∧
    ∀ rest, (haltedWith [.input (.elapse 0)]).pending ≠ .input .reset :: rest :=
  ⟨rfl, rfl, (by intro r h; cases h)⟩
theorem witness_HaltIsLeftByResetOnly_load :
    let s := haltedWith [.input (.load (List.replicate 3584 0xAA#8))]
    s.mode = .halt ∧ s.pending = .input (.load (List.replicate 3584 0xAA#8)) :: [] ∧
    (List.replicate 3584 0xAA#8).length ≤ 3584 ∧ Memory.wf s.params.font s.mem = true := ⟨rfl, rfl, Nat.le_of_eq List.length_replicate, rfl⟩
theorem witness_UnkRecordsUnknownEncodings :
    step State.reset = .next (ran State.reset 0#16) ∧ exec .cls State.reset = .next State.reset.clear := ⟨rfl, rfl⟩
theorem witness_InputsChangeOnlyTheirOwnState : (0 : Fin 16) ≠ 15 ∧ ∀ x, State.reset.mode ≠ .waitKey x :=
  ⟨by decide, fun _ => Mode.noConfusion⟩

/-- The bytes F1 55 at 0x200 (LD [I], V1) with I just behind them. -/
def storesAhead : State := State.writeBytes 0x200 [0xF1#8, 0x55#8] (State.reset.setI 0x202#16)

theorem witness_StoredBytesAreFetchedNext :
    StepNext storesAhead [] ∧ storesAhead.pc.toNat ≤ 0xFFE ∧ WordAt storesAhead 0xF155#16 ∧
    decode storesAhead.params.decodeMode 0xF155#16 = some (.ldMemVx 1#4) ∧ 1 ≤ (1#4).toNat ∧
    storesAhead.i = storesAhead.pc + 2#16 ∧ storesAhead.i.toNat + (1#4).toNat ≤ 0xFFF ∧
    Memory.wf storesAhead.params.font storesAhead.mem = true :=
  ⟨⟨rfl, .inl ⟨rfl, rfl⟩⟩, by decide, by unfold WordAt; decide, by decide, by decide, by decide, by decide, by decide⟩

/-- The bytes 12 00 at 0x200 (JP 0x200). -/
def selfJump : State := State.writeBytes 0x200 [0x12#8, 0x00#8] State.reset

theorem witness_JumpToSelfChangesNothing :
    selfJump.mode = .run ∧ selfJump.pending = [] ∧ selfJump.pc.toNat ≤ 0xFFE ∧ WordAt selfJump 0x1200#16 ∧
    decode selfJump.params.decodeMode 0x1200#16 = some (.jp 0x200#12) ∧ (0x200#12).toNat = selfJump.pc.toNat :=
  ⟨by decide, by decide, by decide, by unfold WordAt; decide, by decide, by decide⟩
theorem witness_ResetValues_boundaries : 79 < 80 ∧ 0x050 ≤ 0x050 ∧ 0x050 ≤ 0xFFF ∧ State.reset.byte 79 = defaultFont[79] := by decide
theorem witness_ResetFromAnyState : (haltedWith [.input .reset]).pending = .input .reset :: [] := rfl
theorem witness_LoadPlacesTheImage_fits :
    let s := { State.reset with pending := [.input (.load (List.replicate 3584 0xAA#8))] }
    Memory.wf s.params.font s.mem = true ∧ s.pending = .input (.load (List.replicate 3584 0xAA#8)) :: [] ∧
    (∀ x, s.mode ≠ .waitKey x) ∧ (List.replicate 3584 0xAA#8).length ≤ 3584 := ⟨rfl, rfl, fun _ => Mode.noConfusion, Nat.le_of_eq List.length_replicate⟩
theorem witness_LoadPlacesTheImage_too_large :
    let s := { State.reset with pending := [.input (.load (List.replicate 3585 0xAA#8))] }
    Memory.wf s.params.font s.mem = true ∧ s.pending = .input (.load (List.replicate 3585 0xAA#8)) :: [] ∧
    (∀ x, s.mode ≠ .waitKey x) ∧ 3584 < (List.replicate 3585 0xAA#8).length := ⟨rfl, rfl, fun _ => Mode.noConfusion, Nat.lt_of_lt_of_eq (by decide) List.length_replicate.symm⟩
theorem witness_LoadPlacesTheImage_waiting :
    let s := waiting [.input (.load [1#8])]
    Memory.wf s.params.font s.mem = true ∧ s.pending = .input (.load [1#8]) :: [] ∧ s.mode = .waitKey 15#4 := ⟨rfl, rfl, rfl⟩
theorem witness_DecodeInvertsEncode : (Instr.drw 15#4 0#4 15#4).wellFormed = true := rfl
theorem witness_DecodeFollowsTheOpcodeMap :
    decode .strict 0xFF65#16 = some (.ldVxMem 15#4) ∧ (⟨0xF065#16, 0xF0FF#16⟩ : OpcodeRow) ∈ opcodeMap ∧
    0xFF65#16 &&& 0xF0FF#16 = 0xF065#16 := by decide
theorem witness_EncodeInvertsDecode :
    decode .strict 0x8FFE#16 = some (.shl 15#4) ∧ decode .strict 0x8FF7#16 = some (.subn 15#4 15#4) := by decide
theorem witness_LaxDecodingExtendsStrict : decode .strict 0x1FFF#16 = some (.jp 0xFFF#12) ∧ decode .strict 0x5FFF#16 = none := by decide
theorem witness_StepKeepsTheInvariant : State.reset.Inv ∧ step State.reset = .next (ran State.reset 0#16) :=
  ⟨inv_reset_pending [], rfl⟩
theorem witness_ResetHasTheInvariants : Params.wellFormed { defaultParams with stackDepth := some 1, unitsPerTick := 1 } = true := by decide
theorem witness_PcStaysBounded :
    let s := (State.reset.setPc 0x10FE#16).setStack [0x1000#16]
    s.PcBounded ∧ step s = .next (s.raise .memoryOutOfRange) :=
  ⟨⟨by decide, by intro a h; obtain rfl := List.mem_singleton.mp h; decide⟩, rfl⟩
theorem witness_CanonicalMemoryIsUnique :
    Memory.wf defaultFont [(0x000, 0x00#8), (0xFFF, 0x01#8)] = true ∧
    ∀ a, Memory.read defaultFont [(0x000, 0x00#8), (0xFFF, 0x01#8)] a = Memory.read defaultFont [(0x000, 0x00#8), (0xFFF, 0x01#8)] a :=
  ⟨by decide, fun _ => rfl⟩

end Sys2Proof.Machine
end

/-! PROOFS of the statements about the state: its reset values (O48) and the flag UNK (O44). -/

namespace Sys2Proof.Machine

/-! ## The reset state -/

theorem unlisted_of_lt (font : Font) {a : Nat} (h : a < 80) : unlisted font a = font[a] := dif_pos h

theorem unlisted_of_ge (font : Font) {a : Nat} (h : 80 ≤ a) : unlisted font a = 0#8 := dif_neg (Nat.not_lt.mpr h)

@[simp] theorem State.resetWith_reg (p : Params) (r : RegIdx) : (State.resetWith p).reg r = 0#8 :=
  Vector.getElem_replicate r.isLt

@[simp] theorem State.resetWith_byte (p : Params) (a : Nat) : (State.resetWith p).byte a = unlisted p.font a := rfl

@[simp] theorem State.resetWith_pixel (p : Params) (x : Fin 64) (y : Fin 32) :
    (State.resetWith p).pixel x y = fbPixel p.fbReset x y := rfl

/-- Settles O48: registers, memory and pixels by the laws of `State.resetWith`, the other fields by definition. -/
theorem resetValues : Obligations.ResetValues := by
  have hreg : ∀ r, State.reset.reg r = 0#8 := State.resetWith_reg defaultParams
  have hfont : ∀ a (h : a < 80), State.reset.byte a = defaultFont[a] := fun _ h => unlisted_of_lt defaultFont h
  have hzero : ∀ a, 0x050 ≤ a → a ≤ 0xFFF → State.reset.byte a = 0#8 := fun _ h _ => unlisted_of_ge defaultFont h
  have hpixel : ∀ x y, State.reset.pixel x y = false := fbPixel_blank
  exact ⟨hreg, rfl, rfl, rfl, rfl, rfl, rfl, hfont, hzero, hpixel, rfl, rfl, rfl⟩

/-! ## No operation reads UNK

`State.withUnk` commutes with every operation an instruction is made of. For the operations without a branch this holds
by definition; the ones below branch or recurse. -/

/-- The state with another UNK. -/
def State.withUnk (s : State) (b : Bool) : State := { s with unk := b }

@[simp] theorem State.withUnk_unk (s : State) (b : Bool) : (s.withUnk b).unk = b := rfl

@[simp] theorem State.withUnk_self (s : State) : s.withUnk s.unk = s := rfl

theorem State.skipIf_withUnk (s : State) (b c : Bool) : (s.withUnk b).skipIf c = (s.skipIf c).withUnk b := by
  cases c <;> rfl

theorem State.setResultAndFlag_withUnk (s : State) (b : Bool) (x : RegIdx) (r : Byte) (c : Bool) :
    (s.withUnk b).setResultAndFlag x r c = (s.setResultAndFlag x r c).withUnk b := by
  unfold State.setResultAndFlag
  rw [show (s.withUnk b).params = s.params from rfl]
  cases s.params.vfOrder <;> rfl

theorem State.pushThen_withUnk (s : State) (b : Bool) (a : Word) (k : State → State)
    (hk : ∀ t : State, k (t.withUnk b) = (k t).withUnk b) :
    (s.withUnk b).pushThen a k = (s.pushThen a k).withUnk b := by
  unfold State.pushThen
  rw [show (s.withUnk b).stackFull = s.stackFull from rfl]
  cases s.stackFull
  · exact hk (s.setStack (a :: s.stack))
  · rfl

theorem State.popThen_withUnk (s : State) (b : Bool) (k : Word → State → State)
    (hk : ∀ a (t : State), k a (t.withUnk b) = (k a t).withUnk b) :
    (s.withUnk b).popThen k = (s.popThen k).withUnk b := by
  unfold State.popThen
  rw [show (s.withUnk b).stack = s.stack from rfl]
  cases s.stack with
  | nil => rfl
  | cons a rest => exact hk a (s.setStack rest)

theorem State.checkedRange_withUnk (s : State) (b : Bool) (base n : Nat) (k : State → State)
    (hk : k (s.withUnk b) = (k s).withUnk b) :
    (s.withUnk b).checkedRange base n k = (s.checkedRange base n k).withUnk b := by
  unfold State.checkedRange
  cases outOfRange base n
  · exact hk
  · rfl

theorem State.writeBytes_withUnk (base : Nat) (bs : List Byte) (s : State) (b : Bool) :
    State.writeBytes base bs (s.withUnk b) = (State.writeBytes base bs s).withUnk b := by
  induction bs generalizing base s with
  | nil => rfl
  | cons a as ih => exact ih (base + 1) (s.setByte base a)

theorem State.loadRegs_withUnk (base n : Nat) (s : State) (b : Bool) :
    State.loadRegs base n (s.withUnk b) = (State.loadRegs base n s).withUnk b := by
  induction n with
  | zero => rfl
  | succ n ih =>
    rw [State.loadRegs, ih]
    rfl

/-! ## What an instruction, an input and a step do to UNK -/

/-- No instruction reads or writes UNK. -/
theorem exec_withUnk {i : Instr} {s t : State} (b : Bool) (h : exec i s = .next t) :
    exec i (s.withUnk b) = .next (t.withUnk b) := by
  cases i
  all_goals obtain rfl := Host.Outcome.next.inj h
  case ret => exact congrArg Host.Outcome.next (s.popThen_withUnk b _ fun _ _ => rfl)
  case call nnn => exact congrArg Host.Outcome.next (s.pushThen_withUnk b _ _ fun _ => rfl)
  case drw x y n => exact congrArg Host.Outcome.next (s.checkedRange_withUnk b _ _ _ rfl)
  case ldB | ldMemVx => exact congrArg Host.Outcome.next (s.checkedRange_withUnk b _ _ _ (State.writeBytes_withUnk _ _ s b))
  case ldVxMem x => exact congrArg Host.Outcome.next (s.checkedRange_withUnk b _ _ _ (State.loadRegs_withUnk _ _ s b))
  case seImm | sneImm | seReg | sneReg | skp | sknp => exact congrArg Host.Outcome.next (s.skipIf_withUnk b _)
  case addReg | subReg | shr | subn | shl => exact congrArg Host.Outcome.next (s.setResultAndFlag_withUnk b _ _ _)
  all_goals rfl

/-- An instruction leaves UNK: executed with the UNK it finds, it answers that UNK. -/
theorem exec_unk {i : Instr} {s t : State} (h : exec i s = .next t) : t.unk = s.unk := by
  have e : t = t.withUnk s.unk := Host.Outcome.next.inj (h.symm.trans (exec_withUnk s.unk h))
  rw [e, State.withUnk_unk]

@[simp] theorem State.resetCore_unk (s : State) : s.resetCore.unk = false := rfl

@[simp] theorem State.elapse_unk (s : State) (u : Nat) : (s.elapse u).unk = s.unk := by rw [State.elapse_eq]

@[simp] theorem State.deliver_unk (s : State) (k : Fin 16) : (s.deliver k).unk = s.unk := by
  rcases s.deliver_cases k with ⟨x, -, e⟩ | ⟨-, e⟩ <;> rw [e]
  rfl

@[simp] theorem State.writeBytes_unk (base : Nat) (bs : List Byte) (s : State) :
    (State.writeBytes base bs s).unk = s.unk := by rw [State.writeBytes_eq]

@[simp] theorem State.load_unk (s : State) (bytes : List Byte) : (s.load bytes).unk = s.unk := by
  rcases s.load_cases bytes with ⟨-, e⟩ | ⟨-, -, e⟩ | ⟨-, -, e⟩ <;> rw [e]
  · exact s.emit_unk .imageTooLarge
  · exact State.writeBytes_unk 0x200 bytes s

/-- Of the inputs reset alone touches UNK. -/
theorem State.applyInput_unk (s : State) {e : Input} (he : e ≠ .reset) : (s.applyInput e).unk = s.unk := by
  cases e with
  | elapse u => exact s.elapse_unk u
  | key k down => exact s.setKey_unk k down
  | deliver k => exact s.deliver_unk k
  | load bytes => exact s.load_unk bytes
  | reset => exact absurd rfl he

@[simp] theorem Executing_unk (s : State) (rest : List Move) : (Executing s rest).unk = s.unk := rfl

/-- No input is next where a step request is. -/
theorem RequestNext.pending_ne_input {s : State} {rest : List Move} (h : RequestNext s rest) (e : Input)
    (l : List Move) : s.pending ≠ .input e :: l := by
  rcases h with ⟨h, -⟩ | h <;> simp [h]

/-- The next move is a step in RUN whose word at PC decodes to no instruction (R95). -/
def UnknownNext (s : State) : Prop :=
  ∃ rest w, StepNext s rest ∧ s.pc.toNat ≤ 0xFFE ∧ WordAt s w ∧ decode s.params.decodeMode w = none

/-- `UnknownNext` through the fetch of the model. -/
theorem unknownNext_iff (s : State) : UnknownNext s ↔
    (∃ rest, StepNext s rest) ∧ s.pc.toNat ≤ 0xFFE ∧ decode s.params.decodeMode s.fetchWord = none := by
  simp only [UnknownNext, wordAt_iff]
  constructor
  · rintro ⟨rest, _, hs, hpc, rfl, hd⟩
    exact ⟨⟨rest, hs⟩, hpc, hd⟩
  · rintro ⟨⟨rest, hs⟩, hpc, hd⟩
    exact ⟨rest, _, hs, hpc, rfl, hd⟩

/-- A step sets UNK at an unknown encoding, clears it at a reset, and else keeps it. -/
theorem step_unk_cases {s t : State} (h : step s = .next t) :
    (UnknownNext s ∧ t.unk = true) ∨
    (¬ UnknownNext s ∧ (∃ rest, s.pending = .input .reset :: rest) ∧ t.unk = false) ∨
    (¬ UnknownNext s ∧ (∀ rest, s.pending ≠ .input .reset :: rest) ∧ t.unk = s.unk) := by
  simp only [unknownNext_iff]
  rcases step_cases h with ⟨e, rest, hp, rfl⟩ | ⟨rest, hr, hm, rfl⟩ | ⟨rest, hs, hpc, rfl⟩ |
    ⟨rest, i, hs, -, hd, hx⟩ | ⟨rest, hs, hpc, hd, rfl⟩
  · have hno : ¬ ∃ l, StepNext s l := fun ⟨_, _, hr⟩ => hr.pending_ne_input e rest hp
    by_cases he : e = .reset
    · subst he
      exact .inr (.inl ⟨fun hu => hno hu.1, ⟨rest, hp⟩, State.resetCore_unk _⟩)
    · exact .inr (.inr ⟨fun hu => hno hu.1, by simp [hp, he], State.applyInput_unk _ he⟩)
  · exact .inr (.inr ⟨fun ⟨⟨_, hrun, _⟩, _⟩ => hm hrun, hr.pending_ne_input .reset, rfl⟩)
  · exact .inr (.inr ⟨fun ⟨_, hle, _⟩ => Nat.not_lt.mpr hle hpc, hs.2.pending_ne_input .reset, rfl⟩)
  · exact .inr (.inr ⟨by simp [hd], hs.2.pending_ne_input .reset, (exec_unk hx).trans (Executing_unk s rest)⟩)
  · exact .inl ⟨⟨⟨rest, hs⟩, hpc, hd⟩, rfl⟩

/-- Settles O44: the three cases of `step_unk_cases`, and `exec_withUnk` for the instructions. -/
theorem unkRecordsUnknownEncodings : Obligations.UnkRecordsUnknownEncodings := by
  refine ⟨fun s t h => ?_, fun i s t b h => exec_withUnk b h⟩
  change _ ↔ _ ∨ UnknownNext s
  rcases step_unk_cases h with ⟨hu, ht⟩ | ⟨hu, ⟨rest, hp⟩, ht⟩ | ⟨hu, hp, ht⟩
  · simp [hu, ht]
  · simp [hu, ht, hp]
  · simp [hu, ht, hp]

end Sys2Proof.Machine

/-! PROOFS of the statement about the opcode map (O52). The family nibble of a word fixes the mask it is compared under,
so one row at most can select the word; an instruction strictly decoded has that row, and the bits outside the mask do
not decide whether there is one. -/

namespace Sys2Proof

/-! ## A word from its fields -/

theorem packA_fields (w : Word) : packA (fieldF w) (fieldNNN w) = w :=
  (BitVec.extractLsb'_append_extractLsb'_eq_extractLsb' rfl).trans BitVec.extractLsb'_eq_self

theorem packXI_fields (w : Word) : packXI (fieldF w) (fieldX w) (fieldNN w) = w :=
  calc packXI (fieldF w) (fieldX w) (fieldNN w)
    _ = w.extractLsb' 8 8 ++ fieldNN w :=
      congrArg (· ++ fieldNN w) (BitVec.extractLsb'_append_extractLsb'_eq_extractLsb' rfl)
    _ = w := wordOfBytes_bytesOfWord w

theorem packXY_fields (w : Word) : packXY (fieldF w) (fieldX w) (fieldY w) (fieldD w) = w :=
  calc packXY (fieldF w) (fieldX w) (fieldY w) (fieldD w)
    _ = w.extractLsb' 8 8 ++ fieldY w ++ fieldD w :=
      congrArg (· ++ fieldY w ++ fieldD w) (BitVec.extractLsb'_append_extractLsb'_eq_extractLsb' rfl)
    _ = w.extractLsb' 4 12 ++ fieldD w :=
      congrArg (· ++ fieldD w) (BitVec.extractLsb'_append_extractLsb'_eq_extractLsb' rfl)
    _ = w := (BitVec.extractLsb'_append_extractLsb'_eq_extractLsb' rfl).trans BitVec.extractLsb'_eq_self

/-! ## The one row that can select a word -/

/-- The mask of every row of the opcode map in family `f` (R75, R76). -/
def familyMask (f : Nibble) : Word :=
  match f with
  | 0x0#4 => 0xFFFF#16
  | 0x5#4 | 0x8#4 | 0x9#4 => 0xF00F#16
  | 0xE#4 | 0xF#4 => 0xF0FF#16
  | _ => 0xF000#16

/-- The only row that `w` can select, whether or not the opcode map has it. -/
def familyRow (w : Word) : OpcodeRow := ⟨w &&& familyMask (fieldF w), familyMask (fieldF w)⟩

theorem fieldF_familyMask : ∀ f, fieldF (familyMask f) = 0xF#4 := by decide

theorem fieldF_and_familyMask (w : Word) (f : Nibble) : fieldF (w &&& familyMask f) = fieldF w :=
  calc fieldF (w &&& familyMask f)
    _ = fieldF w &&& fieldF (familyMask f) := BitVec.extractLsb'_and
    _ = fieldF w &&& 0xF#4 := by rw [fieldF_familyMask]
    _ = fieldF w := BitVec.and_allOnes

theorem mask_of_mem_opcodeMap : ∀ r ∈ opcodeMap, r.mask = familyMask (fieldF r.value) := by decide

/-- A row of the map selects exactly the words whose `familyRow` it is. -/
theorem selects_iff_eq_familyRow {r : OpcodeRow} (hr : r ∈ opcodeMap) (w : Word) :
    w &&& r.mask = r.value ↔ r = familyRow w := by
  have hmask := mask_of_mem_opcodeMap r hr
  constructor
  · intro h
    have hfam : fieldF r.value = fieldF w := by
      rw [← h, hmask, fieldF_and_familyMask]
    rw [hfam] at hmask
    rw [familyRow, ← hmask, h]
  · rintro rfl
    rfl

section
variable {w : Word} {f : Nibble}

theorem familyRow_of_mask_FFFF (hf : fieldF w = f) (hm : familyMask f = 0xFFFF#16) :
    familyRow w = ⟨w, 0xFFFF#16⟩ := by
  rw [familyRow, hf, hm]
  exact congrArg (OpcodeRow.mk · _) BitVec.and_allOnes

theorem familyRow_of_mask_F000 (hf : fieldF w = f) (hm : familyMask f = 0xF000#16) :
    familyRow w = ⟨packA f 0#12, 0xF000#16⟩ := by
  rw [familyRow, hf, hm, ← packA_mask f (fieldNNN w), ← hf, packA_fields]

theorem familyRow_of_mask_F00F (hf : fieldF w = f) (hm : familyMask f = 0xF00F#16) :
    familyRow w = ⟨packXY f 0#4 0#4 (fieldD w), 0xF00F#16⟩ := by
  rw [familyRow, hf, hm, ← packXY_mask_low f (fieldX w) (fieldY w), ← hf, packXY_fields]

theorem familyRow_of_mask_F0FF (hf : fieldF w = f) (hm : familyMask f = 0xF0FF#16) :
    familyRow w = ⟨packXI f 0#4 (fieldNN w), 0xF0FF#16⟩ := by
  rw [familyRow, hf, hm, ← packXI_mask_low f (fieldX w), ← hf, packXI_fields]

end

/-! ## An instruction strictly decoded has the row of its word -/

theorem Instr.row_mem_opcodeMap (i : Instr) : i.row ∈ opcodeMap := by
  cases i <;> exact List.mem_of_elem_eq_true rfl

theorem decodeFamily0_row {x : Nibble} {nn : Byte} {i : Instr} (h : decodeFamily0 .strict x nn = some i) :
    i.row = ⟨packXI 0x0#4 x nn, 0xFFFF#16⟩ := by
  unfold decodeFamily0 at h
  split at h
  next => cases h
  next hx =>
    obtain rfl : x = 0#4 := by simpa using hx
    split at h <;> cases h <;> rfl

theorem decodeIfD0_strict_eq_some {d : Nibble} {i j : Instr} :
    decodeIfD0 .strict d i = some j ↔ d = 0#4 ∧ i = j := by
  simp [decodeIfD0]

theorem decodeFamily8_row {x y d : Nibble} {i : Instr} (h : decodeFamily8 x y d = some i) :
    i.row = ⟨packXY 0x8#4 0#4 0#4 d, 0xF00F#16⟩ := by
  unfold decodeFamily8 at h
  split at h <;> cases h <;> rfl

theorem decodeFamilyE_row {x : Nibble} {nn : Byte} {i : Instr} (h : decodeFamilyE x nn = some i) :
    i.row = ⟨packXI 0xE#4 0#4 nn, 0xF0FF#16⟩ := by
  unfold decodeFamilyE at h
  split at h <;> cases h <;> rfl

theorem decodeFamilyF_row {x : Nibble} {nn : Byte} {i : Instr} (h : decodeFamilyF x nn = some i) :
    i.row = ⟨packXI 0xF#4 0#4 nn, 0xF0FF#16⟩ := by
  unfold decodeFamilyF at h
  split at h <;> cases h <;> rfl

/-- The decoder's last arm is family F. -/
theorem eq_F_of_notMem : ∀ f : Nibble,
    f ∉ [0x0#4, 0x1#4, 0x2#4, 0x3#4, 0x4#4, 0x5#4, 0x6#4, 0x7#4, 0x8#4, 0x9#4, 0xA#4, 0xB#4, 0xC#4, 0xD#4, 0xE#4] →
    f = 0xF#4 := by decide

theorem row_of_decode {w : Word} {i : Instr} (h : decode .strict w = some i) : i.row = familyRow w := by
  unfold decode at h
  split at h
  case h_1 hf => rw [decodeFamily0_row h, familyRow_of_mask_FFFF hf rfl, ← hf, packXI_fields]
  case h_6 hf | h_10 hf =>
    obtain ⟨hd, rfl⟩ := decodeIfD0_strict_eq_some.mp h
    rw [familyRow_of_mask_F00F hf rfl, hd]
    rfl
  case h_9 hf => rw [decodeFamily8_row h, familyRow_of_mask_F00F hf rfl]
  case h_15 hf => rw [decodeFamilyE_row h, familyRow_of_mask_F0FF hf rfl]
  case h_16 =>
    have hf : fieldF w = 0xF#4 := eq_F_of_notMem _ (by simp_all)
    rw [decodeFamilyF_row h, familyRow_of_mask_F0FF hf rfl]
  all_goals
    next hf =>
      cases h
      rw [familyRow_of_mask_F000 hf rfl]
      rfl

/-! ## The bits under the family mask decide whether a word decodes -/

theorem decodeIfD0_isSome_congr (m : DecodeMode) (d : Nibble) (i j : Instr) :
    (decodeIfD0 m d i).isSome = (decodeIfD0 m d j).isSome := by
  unfold decodeIfD0
  split <;> rfl

theorem decodeFamily8_isSome_congr (x y x' y' d : Nibble) :
    (decodeFamily8 x y d).isSome = (decodeFamily8 x' y' d).isSome := by
  unfold decodeFamily8
  split <;> rfl

theorem decodeFamilyE_isSome_congr (x x' : Nibble) (nn : Byte) :
    (decodeFamilyE x nn).isSome = (decodeFamilyE x' nn).isSome := by
  unfold decodeFamilyE
  split <;> rfl

theorem decodeFamilyF_isSome_congr (x x' : Nibble) (nn : Byte) :
    (decodeFamilyF x nn).isSome = (decodeFamilyF x' nn).isSome := by
  unfold decodeFamilyF
  split <;> rfl

theorem isSome_decode_familyRow_value (w : Word) :
    (decode .strict (familyRow w).value).isSome = (decode .strict w).isSome := by
  have hfam : fieldF (familyRow w).value = fieldF w := fieldF_and_familyMask w (fieldF w)
  unfold decode
  rw [hfam]
  split
  case h_1 hf => rw [familyRow_of_mask_FFFF hf rfl]
  case h_6 hf | h_10 hf =>
    rw [familyRow_of_mask_F00F hf rfl, fieldD_packXY]
    exact decodeIfD0_isSome_congr ..
  case h_9 hf =>
    rw [familyRow_of_mask_F00F hf rfl, fieldD_packXY]
    exact decodeFamily8_isSome_congr ..
  case h_15 hf =>
    rw [familyRow_of_mask_F0FF hf rfl, fieldNN_packXI]
    exact decodeFamilyE_isSome_congr ..
  case h_16 =>
    have hf : fieldF w = 0xF#4 := eq_F_of_notMem _ (by simp_all)
    rw [familyRow_of_mask_F0FF hf rfl, fieldNN_packXI]
    exact decodeFamilyF_isSome_congr ..
  all_goals rfl

/-- The `match` of every row, read as a word, decodes. -/
theorem isSome_decode_value : ∀ r ∈ opcodeMap, (decode .strict r.value).isSome = true := by decide

theorem isSome_decode_iff (w : Word) : (decode .strict w).isSome = true ↔ familyRow w ∈ opcodeMap := by
  constructor
  · intro h
    obtain ⟨i, hi⟩ := Option.isSome_iff_exists.mp h
    exact row_of_decode hi ▸ i.row_mem_opcodeMap
  · intro h
    exact (isSome_decode_familyRow_value w).symm.trans (isSome_decode_value _ h)

end Sys2Proof

namespace Sys2Proof.Machine

/-- Settles O52: the rows of the map that a word selects are its `familyRow`, if the map has it, and the word decodes
exactly then. -/
theorem decodeFollowsTheOpcodeMap : Obligations.DecodeFollowsTheOpcodeMap := by
  refine ⟨rfl, fun w => ⟨?_, fun i hi => ?_, fun r hr r' hr' h h' => ?_⟩⟩
  · rw [isSome_decode_iff]
    constructor
    · exact fun h => ⟨_, h, (selects_iff_eq_familyRow h w).mpr rfl⟩
    · rintro ⟨r, hr, h⟩
      exact (selects_iff_eq_familyRow hr w).mp h ▸ hr
  · exact ⟨i.row_mem_opcodeMap, (selects_iff_eq_familyRow i.row_mem_opcodeMap w).mpr (row_of_decode hi)⟩
  · exact ((selects_iff_eq_familyRow hr w).mp h).trans ((selects_iff_eq_familyRow hr' w).mp h').symm

end Sys2Proof.Machine

/-! PROOFS of the statements about the step: fetch, advance and run (O40), and the unknown encoding (O41). -/

namespace Sys2Proof.Machine

section
variable {s : State} {rest : List Move} {w : Word}

/-! ## The step in RUN, by the range of its fetch -/

/-- A fetch out of range halts before PC is advanced (R91, R97). -/
theorem step_of_fetch_out_of_range (h : StepNext s rest) (hpc : 0xFFE < s.pc.toNat) :
    step s = .next ((s.setPending rest).raise .memoryOutOfRange) :=
  (step_of_stepNext h).trans (if_pos ((fetchFaults_iff (s.setPending rest)).mpr hpc))

/-- A fetch in range runs the fetched word with PC advanced (R92, R97). -/
theorem step_of_fetch_in_range (h : StepNext s rest) (hpc : s.pc.toNat ≤ 0xFFE) :
    step s = runWord (Executing s rest) s.fetchWord s.pc :=
  (step_of_stepNext h).trans
    (if_neg fun hf => Nat.not_lt.mpr hpc ((fetchFaults_iff (s.setPending rest)).mp hf))

theorem runWord_of_decode_some {i : Instr} (addr : Word) (hd : decode s.params.decodeMode w = some i) :
    runWord s w addr = exec i s := by
  unfold runWord
  rw [hd]

theorem runWord_of_decode_none (addr : Word) (hd : decode s.params.decodeMode w = none) :
    runWord s w addr = .next (s.diagUnknown w addr) := by
  unfold runWord
  rw [hd]

theorem step_of_known (h : StepNext s rest) (hpc : s.pc.toNat ≤ 0xFFE) (hw : WordAt s w) {i : Instr}
    (hd : decode s.params.decodeMode w = some i) : step s = exec i (Executing s rest) := by
  obtain rfl := (wordAt_iff s w).mp hw
  exact (step_of_fetch_in_range h hpc).trans (runWord_of_decode_some s.pc hd)

theorem step_of_unknown (h : StepNext s rest) (hpc : s.pc.toNat ≤ 0xFFE) (hw : WordAt s w)
    (hd : decode s.params.decodeMode w = none) : step s = .next ((Executing s rest).diagUnknown w s.pc) := by
  obtain rfl := (wordAt_iff s w).mp hw
  exact (step_of_fetch_in_range h hpc).trans (runWord_of_decode_none s.pc hd)

end

/-! ## What a fatal fault and a diagnostic leave unchanged -/

/-- The execute phase's state by the named operations, whose laws then say what it keeps. -/
theorem Executing_eq (s : State) (rest : List Move) : Executing s rest = (s.setPending rest).advancePc := rfl

/-- Raising a fatal fault halts and does nothing else (R200). -/
theorem State.halted_raise (s : State) (c : Cause) : Halted c s (s.raise c) :=
  ⟨rfl, rfl, by constructor <;> simp⟩

/-- The step of an unknown encoding touches UNK, the output events, PC and the pending moves alone (R95, R204). -/
theorem State.frame_executing_diagUnknown (s : State) (rest : List Move) (w addr : Word) :
    Frame { unk := true, outputs := true, pc := true, pending := true } s ((Executing s rest).diagUnknown w addr) := by
  constructor <;> simp [Executing_eq]

/-- Settles O40: `step_of_known`, `step_of_unknown` and `step_of_fetch_out_of_range` are its three cases. -/
theorem stepRunsTheDecodedInstruction : Obligations.StepRunsTheDecodedInstruction := by
  intro s rest h
  refine ⟨fun w hpc hw => ⟨fun i => step_of_known h hpc hw, step_of_unknown h hpc hw⟩, fun hpc => ?_⟩
  exact ⟨_, step_of_fetch_out_of_range h hpc, (s.setPending rest).halted_raise .memoryOutOfRange⟩

/-- Settles O41: the diagnostic of `step_of_unknown` on the state with PC advanced, and its frame. -/
theorem unknownEncodingIsDiagnosticNoOp : Obligations.UnknownEncodingIsDiagnosticNoOp := by
  intro s rest w h hpc hw hd
  have hadvance : (s.pc + 2#16).toNat = (s.pc.toNat + 2) % 65536 := BitVec.toNat_add s.pc 2#16
  exact ⟨_, step_of_unknown h hpc hw hd, rfl, rfl, hadvance, h.1, rfl, s.frame_executing_diagUnknown rest w s.pc⟩

end Sys2Proof.Machine

/-! PROOFS of the statements about control flow: CLS (O1), RET and CALL (O2, O4), the jumps (O3, O7) and the skips
(O5, O6). -/

namespace Sys2Proof.Machine

/-! ## The operands of the jumps, zero-extended (R72, R108) -/

@[simp] theorem addrOperand_toNat (nnn : Addr12) : (addrOperand nnn).toNat = nnn.toNat :=
  BitVec.toNat_setWidth_of_le (by decide)

@[simp] theorem byteOperand_toNat (a : Byte) : (byteOperand a).toNat = a.toNat :=
  BitVec.toNat_setWidth_of_le (by decide)

/-- A 12-bit address and a byte never wrap a 16-bit sum (R108). -/
theorem addrOperand_add_byteOperand_toNat (nnn : Addr12) (a : Byte) :
    (addrOperand nnn + byteOperand a).toNat = nnn.toNat + a.toNat := by
  rw [BitVec.toNat_add, addrOperand_toNat, byteOperand_toNat]
  have hnnn := nnn.isLt
  have ha := a.isLt
  omega

section
variable (s : State)

/-! ## What the operations of control flow leave unchanged -/

@[simp] theorem State.clear_pixel (x : Fin 64) (y : Fin 32) : s.clear.pixel x y = false := fbPixel_blank x y

theorem State.frame_clear : Frame { fb := true } s s.clear := by constructor <;> simp

theorem State.frame_setPc (a : Word) : Frame { pc := true } s (s.setPc a) := by constructor <;> simp

theorem State.frame_setStack_setPc (l : List Word) (a : Word) :
    Frame { pc := true, stack := true } s ((s.setStack l).setPc a) := by constructor <;> simp

theorem State.frame_skipIf (c : Bool) : Frame { pc := true } s (s.skipIf c) :=
  s.skipIf_eq c ▸ s.frame_setPc _

/-! ## Where a skip leaves PC (R104) -/

theorem State.skipIf_pc_toNat (c : Bool) :
    (s.skipIf c).pc.toNat = if c then (s.pc.toNat + 2) % 65536 else s.pc.toNat := by
  cases c
  · rfl
  · exact BitVec.toNat_add s.pc 2#16

theorem State.skipIf_beq_pc_toNat (a b : Byte) :
    (s.skipIf (a == b)).pc.toNat = if a = b then (s.pc.toNat + 2) % 65536 else s.pc.toNat := by
  simp [State.skipIf_pc_toNat]

theorem State.skipIf_bne_pc_toNat (a b : Byte) :
    (s.skipIf (a != b)).pc.toNat = if a = b then s.pc.toNat else (s.pc.toNat + 2) % 65536 := by
  simp [State.skipIf_pc_toNat]

end

/-- A stack within its capacity is full exactly when it holds `STACK_DEPTH` entries (R29). -/
theorem State.stackFits.stackFull_iff {s : State} (hfits : s.stackFits) :
    s.stackFull = true ↔ ∃ d, s.params.stackDepth = some d ∧ s.stack.length = d := by
  rw [State.stackFull_iff]
  constructor
  · rintro ⟨d, hd, hle⟩
    exact ⟨d, hd, Nat.le_antisymm (hfits d hd) hle⟩
  · rintro ⟨d, hd, heq⟩
    exact ⟨d, hd, heq.ge⟩

/-- Settles O1: `Clear` blanks the framebuffer, and its frame. -/
theorem clsClearsEveryPixel : Obligations.ClsClearsEveryPixel := fun s =>
  ⟨s.clear, rfl, s.clear_pixel, s.frame_clear⟩

/-- Settles O2: the two cases of `exec_ret_cases`, each of which excludes the other clause's premise. -/
theorem retPopsNewestOrHalts : Obligations.RetPopsNewestOrHalts := by
  intro s
  rcases exec_ret_cases s with ⟨hs, hx⟩ | ⟨a, rest, hs, hx⟩
  · exact ⟨by simp [hs], fun _ => ⟨_, hx, s.halted_raise .stackUnderflow⟩⟩
  · refine ⟨fun a' rest' h => ?_, by simp [hs]⟩
    obtain ⟨rfl, rfl⟩ := List.cons.inj (hs.symm.trans h)
    exact ⟨_, hx, rfl, rfl, s.frame_setStack_setPc rest a⟩

/-- Settles O3: the jump sets PC alone, to the zero-extended operand. -/
theorem jpSetsPc : Obligations.JpSetsPc := fun s nnn =>
  ⟨s.setPc (addrOperand nnn), rfl, addrOperand_toNat nnn, s.frame_setPc _⟩

/-- Settles O4: the two cases of `exec_call_cases`; in a stack that fits, full means exactly `STACK_DEPTH` entries. -/
theorem callPushesAdvancedPcOrHalts : Obligations.CallPushesAdvancedPcOrHalts := by
  intro s nnn hfits
  rcases exec_call_cases s nnn with ⟨hfull, hx⟩ | ⟨hroom, hx⟩
  · refine ⟨fun hne => ?_, fun _ _ _ => ⟨_, hx, s.halted_raise .stackOverflow⟩⟩
    obtain ⟨d, hd, hlen⟩ := hfits.stackFull_iff.mp hfull
    exact absurd hlen (hne d hd)
  · refine ⟨fun _ => ⟨_, hx, rfl, addrOperand_toNat nnn, s.frame_setStack_setPc _ _⟩, fun d hd hlen => ?_⟩
    have hfull : s.stackFull = true := hfits.stackFull_iff.mpr ⟨d, hd, hlen⟩
    exact absurd (hfull.symm.trans hroom) (by decide)

/-- Settles O5: a skip on equality and one on difference of a register and the immediate. -/
theorem skipsOnImmediate : Obligations.SkipsOnImmediate := fun s x nn =>
  ⟨⟨s.skipIf (s.reg x == nn), rfl, s.skipIf_beq_pc_toNat _ _, s.frame_skipIf _⟩,
    ⟨s.skipIf (s.reg x != nn), rfl, s.skipIf_bne_pc_toNat _ _, s.frame_skipIf _⟩⟩

/-- Settles O6: a skip on equality and one on difference of two registers. -/
theorem skipsOnRegisters : Obligations.SkipsOnRegisters := fun s x y =>
  ⟨⟨s.skipIf (s.reg x == s.reg y), rfl, s.skipIf_beq_pc_toNat _ _, s.frame_skipIf _⟩,
    ⟨s.skipIf (s.reg x != s.reg y), rfl, s.skipIf_bne_pc_toNat _ _, s.frame_skipIf _⟩⟩

/-- Settles O7: the unreduced sum of the two operands, bounded by their widths. -/
theorem jpV0AddsRegisterZero : Obligations.JpV0AddsRegisterZero := by
  intro s nnn
  have hsum := addrOperand_add_byteOperand_toNat nnn (s.reg V0)
  have hnnn := nnn.isLt
  have hv0 := (s.reg V0).isLt
  refine ⟨s.setPc (addrOperand nnn + byteOperand (s.reg V0)), rfl, ?_, hsum, ?_, s.frame_setPc _⟩
  all_goals
    rw [State.setPc_pc, hsum]
    omega

end Sys2Proof.Machine

/-! PROOFS of the statement about the immediate instructions on one register: LD VX,NN and ADD VX,NN (O8). -/

namespace Sys2Proof.Machine

/-- A register write leaves every other register, VF among them, and the rest of the state as they were (R12, R21). -/
theorem State.frame_setReg (s : State) (x : RegIdx) (a : Byte) : Frame { regs := [x] } s (s.setReg x a) := by
  constructor
  case regs => exact fun r hr => s.setReg_reg_of_ne x a r (List.ne_of_not_mem_cons hr)
  all_goals simp

/-- Settles O8: each is one register write, of the immediate and of the wrapped sum. -/
theorem immediateLoadAndAdd : Obligations.ImmediateLoadAndAdd := by
  intro s x nn
  have hsum : ((s.setReg x (s.reg x + nn)).reg x).toNat = ((s.reg x).toNat + nn.toNat) % 256 := by
    rw [State.setReg_reg_self, BitVec.toNat_add]
  exact ⟨⟨s.setReg x nn, rfl, s.setReg_reg_self x nn, s.frame_setReg x nn⟩,
    ⟨s.setReg x (s.reg x + nn), rfl, hsum, s.frame_setReg x _⟩⟩

end Sys2Proof.Machine

/-! PROOFS of the statements about the register-to-register ALU: the copy and the bitwise operations (O9), and the five
operations with a flag (O10 to O14). -/

namespace Sys2Proof.Machine

section
variable (s : State) (x : RegIdx) (r : Byte) (c : Bool)

/-! ## The two writes of a result and a flag (R120) -/

theorem State.resultAndFlag_setResultAndFlag : ResultAndFlag s (s.setResultAndFlag x r c) x r (flagByte c) := by
  refine ⟨fun hx => ⟨?_, ?_⟩, ?_, ?_⟩
  · cases h : s.params.vfOrder <;> simp [State.setResultAndFlag_reg, h, hx]
  · cases h : s.params.vfOrder <;> simp [State.setResultAndFlag_reg, h, hx.symm]
  · rintro rfl h
    simp [State.setResultAndFlag_reg, h]
  · rintro rfl h
    simp [State.setResultAndFlag_reg, h]

theorem State.frame_setResultAndFlag : Frame { regs := [x, VF] } s (s.setResultAndFlag x r c) := by
  have hregs : ∀ q, q ∉ [x, VF] → (s.setResultAndFlag x r c).reg q = s.reg q := by
    intro q hq
    obtain ⟨hqx, hqf⟩ : q ≠ x ∧ q ≠ VF := by simpa using hq
    cases h : s.params.vfOrder <;> simp [State.setResultAndFlag_reg, h, hqx, hqf]
  rw [State.setResultAndFlag_eq] at hregs ⊢
  constructor
  case regs => exact hregs
  case dt | mode => exact fun _ => ⟨rfl, rfl⟩
  all_goals intros; rfl

/-- An instruction that ends in these two writes completes with the result and the flag, and changes only VX and VF. -/
theorem State.next_setResultAndFlag {r c} {result flag : Byte} (hr : r = result) (hc : flagByte c = flag) :
    ∃ t, (.next (s.setResultAndFlag x r c) : Host.Outcome State Fault Refusal) = .next t ∧
      ResultAndFlag s t x result flag ∧ Frame { regs := [x, VF] } s t := by
  subst hr hc
  exact ⟨_, rfl, s.resultAndFlag_setResultAndFlag x r c, s.frame_setResultAndFlag x r c⟩

end

section
variable (a b : Byte)

/-! ## The results as numbers -/

theorem subResult_eq_ofNat :
    subResult a b = BitVec.ofNat 8 (if a.toNat < b.toNat then b.toNat - a.toNat else a.toNat - b.toNat) := by
  unfold subResult
  split <;> bv_omega

theorem byte_add_eq_ofNat_mod : a + b = BitVec.ofNat 8 ((a.toNat + b.toNat) % 256) := by bv_omega

theorem byte_sub_eq_ofNat_mod : b - a = BitVec.ofNat 8 ((256 + b.toNat - a.toNat) % 256) := by bv_omega

theorem byte_ushiftRight_one_eq_ofNat : a >>> 1 = BitVec.ofNat 8 (a.toNat / 2) := by bv_omega

theorem byte_shiftLeft_one_eq_ofNat_mod : a <<< 1 = BitVec.ofNat 8 (2 * a.toNat % 256) := by bv_omega

/-! ## The flags as conditions on numbers (R23) -/

theorem flagByte_addCarry : flagByte (addCarry a b) = if a.toNat + b.toNat > 255 then 1#8 else 0#8 := by
  simp [flagByte, addCarry]

theorem flagByte_subNoBorrow : flagByte (subNoBorrow a b) = if a.toNat < b.toNat then 0#8 else 1#8 := by
  by_cases h : a.toNat < b.toNat <;> simp [flagByte, subNoBorrow, h]

theorem flagByte_subnFlag : flagByte (subnFlag a b) = if b.toNat > a.toNat then 1#8 else 0#8 := by
  simp [flagByte, subnFlag]

theorem flagByte_eq_ofNat (c : Bool) : flagByte c = BitVec.ofNat 8 c.toNat := by cases c <;> rfl

theorem flagByte_shrOut : flagByte (shrOut a) = BitVec.ofNat 8 (a.toNat % 2) := by
  have hbit : (a.getLsbD 0).toNat = a.toNat % 2 := by
    rw [BitVec.getLsbD, Nat.toNat_testBit, Nat.pow_zero, Nat.div_one]
  rw [flagByte_eq_ofNat, shrOut, hbit]

theorem flagByte_shlOut : flagByte (shlOut a) = BitVec.ofNat 8 (a.toNat / 128) := by
  have hbit : (a.getLsbD 7).toNat = a.toNat / 128 := by
    have ha := a.isLt
    rw [BitVec.getLsbD, Nat.toNat_testBit]
    omega
  rw [flagByte_eq_ofNat, shlOut, hbit]

end

/-- Settles O9: each is one register write, whose value `BitVec` computes bit by bit. -/
theorem copyAndBitwiseOperations : Obligations.CopyAndBitwiseOperations := by
  intro s x y
  refine ⟨⟨_, rfl, s.setReg_reg_self x _, s.frame_setReg x _⟩, ⟨_, rfl, fun k => ?_, s.frame_setReg x _⟩,
    ⟨_, rfl, fun k => ?_, s.frame_setReg x _⟩, ⟨_, rfl, fun k => ?_, s.frame_setReg x _⟩⟩
  · rw [State.setReg_reg_self, BitVec.getLsbD_or]
  · rw [State.setReg_reg_self, BitVec.getLsbD_and]
  · rw [State.setReg_reg_self, BitVec.getLsbD_xor]

/-- Settles O10: the wrapped sum and the carry are the two writes. -/
theorem addSetsCarry : Obligations.AddSetsCarry := fun s x _ =>
  s.next_setResultAndFlag x (byte_add_eq_ofNat_mod _ _) (flagByte_addCarry _ _)

/-- Settles O11: the difference of the greater and the smaller operand, and the absence of a borrow. -/
theorem subStoresAbsoluteDifference : Obligations.SubStoresAbsoluteDifference := fun s x _ =>
  s.next_setResultAndFlag x (subResult_eq_ofNat _ _) (flagByte_subNoBorrow _ _)

/-- Settles O12: the shifted value is VY's, the bit shifted out is taken from VX. -/
theorem shrShiftsSourceFlagsDestination : Obligations.ShrShiftsSourceFlagsDestination := fun s x _ =>
  s.next_setResultAndFlag x (byte_ushiftRight_one_eq_ofNat _) (flagByte_shrOut _)

/-- Settles O13: the wrapped reverse difference, and the strict comparison as its flag. -/
theorem subnStoresReverseDifference : Obligations.SubnStoresReverseDifference := fun s x _ =>
  s.next_setResultAndFlag x (byte_sub_eq_ofNat_mod _ _) (flagByte_subnFlag _ _)

/-- Settles O14: the wrapped double of VX, and its old top bit. -/
theorem shlShiftsInPlace : Obligations.ShlShiftsInPlace := fun s x =>
  s.next_setResultAndFlag x (byte_shiftLeft_one_eq_ofNat_mod _) (flagByte_shlOut _)

end Sys2Proof.Machine

/-! PROOFS of the statements about the address register I: LD I,NNN and LD F,VX (O15), ADD I,VX (O16). -/

namespace Sys2Proof.Machine

/-! ## The address of a glyph, and the flag of ADD I -/

/-- The mask takes the low nibble, and 15 glyphs of 5 bytes stay far below a wrap (R132). -/
theorem glyphAddr_toNat (a : Byte) : (glyphAddr a).toNat = a.toNat % 16 * 5 := by
  have hnibble : (a &&& 0x0F#8).toNat = a.toNat % 16 := Nat.and_two_pow_sub_one_eq_mod a.toNat 4
  rw [glyphAddr, hnibble, BitVec.toNat_ofNat]
  omega

theorem flagByte_addIOverflow (i : Word) (a : Byte) :
    flagByte (addIOverflow i a) = if i.toNat + a.toNat > 0xFFF then 1#8 else 0#8 := by
  simp [flagByte, addIOverflow]

section
variable (s : State) (a : Word)

/-! ## What the writes of I leave unchanged -/

theorem State.frame_setI : Frame { i := true } s (s.setI a) := by constructor <;> simp

theorem State.frame_setI_setFlag (c : Bool) : Frame { i := true, regs := [VF] } s ((s.setI a).setFlag c) := by
  constructor
  case regs => exact fun r hr => (s.setI a).setReg_reg_of_ne VF (flagByte c) r (List.ne_of_not_mem_cons hr)
  all_goals simp

end

/-- Settles O15: each is one write of I, of the zero-extended address and of the glyph's address. -/
theorem ldILoadsZeroExtended : Obligations.LdILoadsZeroExtended := fun s nnn x =>
  ⟨⟨s.setI (addrOperand nnn), rfl, addrOperand_toNat nnn, s.frame_setI _⟩,
    ⟨s.setI (glyphAddr (s.reg x)), rfl, glyphAddr_toNat (s.reg x), s.frame_setI _⟩⟩

/-- Settles O16: the wrapped sum goes to I and the flag to VF, both computed from the state before,
so X = 15 is no case of its own. -/
theorem addIWrapsAndFlagsAboveFff : Obligations.AddIWrapsAndFlagsAboveFff := by
  intro s x
  have hsum : (s.i + byteOperand (s.reg x)).toNat = (s.i.toNat + (s.reg x).toNat) % 65536 := by
    rw [BitVec.toNat_add, byteOperand_toNat]
  have hflag (t : State) : (t.setFlag (addIOverflow s.i (s.reg x))).reg VF =
      if s.i.toNat + (s.reg x).toNat > 0xFFF then 1#8 else 0#8 := by
    rw [State.setFlag_reg, if_pos rfl, flagByte_addIOverflow]
  exact ⟨_, rfl, hsum, hflag _, s.frame_setI_setFlag _ _⟩

end Sys2Proof.Machine

/-! PROOFS of the statement about the sprite draw: DRW VX,VY,N in range and out of range (O18). -/

namespace Sys2Proof.Machine

/-! ## The bytes of a sprite, its columns and its rows (R58, R141) -/

@[simp] theorem State.readBytes_getElem (s : State) (base n row : Nat) (h : row < (s.readBytes base n).length) :
    (s.readBytes base n)[row] = s.byte (base + row) := by simp [State.readBytes]

@[simp] theorem State.setFb_pixel (s : State) (fb : Framebuffer) (p : Fin 64) (q : Fin 32) :
    (s.setFb fb).pixel p q = fbPixel fb p q := rfl

theorem pixelColumn_eq_iff (x0 col : Nat) (p : Fin 64) : pixelColumn x0 col = p ↔ (x0 + col) % 64 = p.val := Fin.ext_iff

theorem pixelRow_eq_iff (y0 row : Nat) (q : Fin 32) : pixelRow y0 row = q ↔ (y0 + row) % 32 = q.val := Fin.ext_iff

section
variable (s : State) (x y : RegIdx) (n : Nibble)

/-! ## What the sprite of a DRW covers, flips and hits -/

/-- The rasterizer's view of the sprite that DRW reads at I is the statement's: wrapped columns and rows, bit 7 first
(R140, R141). -/
theorem spriteCovers_iff_rowsHit (p : Fin 64) (q : Fin 32) :
    SpriteCovers s x y n p q ↔
      rowsHit (s.reg x).toNat (s.reg y).toNat 0 (s.readBytes s.base n.toNat) p q := by
  simp only [rowsHit, rowHits, State.readBytes_getElem, State.readBytes_length, pixelColumn_eq_iff, pixelRow_eq_iff,
    Nat.zero_add]
  constructor
  · rintro ⟨row, col, hrow, hcol, hbit, hp, hq⟩
    exact ⟨row, hrow, ⟨col, hcol, hbit, hp⟩, hq⟩
  · rintro ⟨row, hrow, ⟨col, hcol, hbit, hp⟩, hq⟩
    exact ⟨row, col, hrow, hcol, hbit, hp, hq⟩

/-- A sprite has at most 15 rows, so no two of them land on the same row of pixels (R145). -/
theorem State.readBytes_nibble_length_le (base : Nat) : 0 + (s.readBytes base n.toNat).length ≤ 32 := by
  have hn := n.isLt
  rw [State.readBytes_length]
  omega

theorem State.spriteDrawn_pixel (p : Fin 64) (q : Fin 32) :
    fbPixel (s.spriteDrawn x y n).1 p q ≠ s.pixel p q ↔ SpriteCovers s x y n p q :=
  (drawRows_pixel _ _ 0 _ (s.readBytes_nibble_length_le n _) s.fb p q).trans (spriteCovers_iff_rowsHit s x y n p q).symm

theorem State.spriteDrawn_hit :
    (s.spriteDrawn x y n).2 = true ↔ ∃ p q, SpriteCovers s x y n p q ∧ s.pixel p q = true := by
  simp only [spriteCovers_iff_rowsHit]
  exact drawRows_hit _ _ 0 _ (s.readBytes_nibble_length_le n _) s.fb

/-! ## What the writes of a draw leave in VF, and what they leave unchanged -/

theorem State.setFb_setFlag_present_reg_vf (fb : Framebuffer) (c : Bool) :
    ((s.setFb fb).setFlag c).present.reg VF = flagByte c := by
  rw [State.present_reg, State.setFlag_reg, if_pos rfl]

/-- A draw leaves everything but VF, the framebuffer and the output events (R140, R146). -/
theorem State.frame_setFb_setFlag_present (fb : Framebuffer) (c : Bool) :
    Frame { regs := [VF], fb := true, outputs := true } s ((s.setFb fb).setFlag c).present := by
  constructor
  case regs => exact fun r hr => (s.setFb fb).setReg_reg_of_ne VF (flagByte c) r (List.ne_of_not_mem_cons hr)
  all_goals simp

end

/-- Settles O18: `exec_drw_cases` halts or draws, each excluding the other clause's premise; a draw flips the covered
pixels by `spriteDrawn_pixel`, and its collision is `spriteDrawn_hit`. -/
theorem drwXorsSpriteIntoFramebuffer : Obligations.DrwXorsSpriteIntoFramebuffer := by
  intro s x y n
  rcases exec_drw_cases s x y n with ⟨hpos, hout, hx⟩ | ⟨hin, hx⟩
  · refine ⟨fun hrange => ?_, fun _ _ => ⟨_, hx, s.halted_raise .memoryOutOfRange⟩⟩
    rcases hrange with h | h <;> omega
  · refine ⟨fun _ => ⟨_, hx, s.spriteDrawn_pixel x y n, fun hset => ?_, fun hclear => ?_, rfl,
      s.frame_setFb_setFlag_present _ _⟩, fun hpos hout => ?_⟩
    · have hhit : (s.spriteDrawn x y n).2 = true := (s.spriteDrawn_hit x y n).mpr hset
      rw [State.setFb_setFlag_present_reg_vf, hhit]
      rfl
    · have hmiss : (s.spriteDrawn x y n).2 = false := by
        refine Bool.eq_false_iff.mpr fun hhit => ?_
        obtain ⟨p, q, hcovers, hset⟩ := (s.spriteDrawn_hit x y n).mp hhit
        exact Bool.eq_false_iff.mp (hclear p q hcovers) hset
      rw [State.setFb_setFlag_present_reg_vf, hmiss]
      rfl
    · rcases hin with h | h <;> omega

end Sys2Proof.Machine

/-! PROOFS of the statement about the key skips: SKP VX and SKNP VX (O21). -/

namespace Sys2Proof.Machine

/-- The model's key test is the statement's, under the one legal `KEY_OOR`: no key above 15 is pressed (R152). -/
theorem State.keyDown_iff (s : State) (k : Byte) : s.keyDown k = true ↔ KeyDown s k := by
  unfold State.keyDown KeyDown
  split
  case isTrue h => exact ⟨fun hkey => ⟨h, hkey⟩, fun ⟨_, hkey⟩ => hkey⟩
  case isFalse h =>
    cases s.params.keyOor with
    | notPressed => exact iff_of_false Bool.false_ne_true fun ⟨hk, _⟩ => h hk

/-- Settles O21: the two skips test the same `keyDown`, SKNP its negation, so one advances PC and the other keeps it. -/
theorem keySkipsAreOpposite : Obligations.KeySkipsAreOpposite := by
  intro s x
  have hskip : (s.skipIf true).pc.toNat = (s.pc.toNat + 2) % 65536 := s.skipIf_pc_toNat true
  refine ⟨s.skipIf (s.keyDown (s.reg x)), s.skipIf (!s.keyDown (s.reg x)), rfl, rfl, fun hdown => ?_, fun hup => ?_,
    s.frame_skipIf _, s.frame_skipIf _⟩
  · rw [(s.keyDown_iff _).mpr hdown]
    exact ⟨hskip, rfl⟩
  · rw [Bool.eq_false_iff.mpr (mt (s.keyDown_iff _).mp hup)]
    exact ⟨rfl, hskip⟩

end Sys2Proof.Machine

/-! PROOFS of the statements about the timers and the memory transfer: LD DT,VX (O22), LD ST,VX (O24), LD B,VX (O31),
LD [I],VX (O32) and LD VX,[I] (O33). -/

namespace Sys2Proof.Machine

/-! ## What the writes of the two timers leave unchanged -/

theorem State.frame_setDt (s : State) (a : Byte) : Frame { dt := true } s (s.setDt a) := by constructor <;> simp

theorem State.frame_setSt (s : State) (a : Byte) : Frame { st := true } s (s.setSt a) := by constructor <;> simp

/-- Settles O22: one write of DT, which sets the phase to 0. -/
theorem delayTimerIsWritten : Obligations.DelayTimerIsWritten := fun s x =>
  ⟨s.setDt (s.reg x), rfl, rfl, rfl, s.frame_setDt _⟩

/-! ## No operation reads ST

`State.setSt` commutes with every operation an instruction other than LD ST,VX is made of: by definition where the
operation runs straight through, and by its branch or its recursion for the ones below. -/

theorem State.skipIf_setSt (s : State) (a : Byte) (c : Bool) : (s.setSt a).skipIf c = (s.skipIf c).setSt a := by
  cases c <;> rfl

theorem State.setResultAndFlag_setSt (s : State) (a : Byte) (x : RegIdx) (r : Byte) (c : Bool) :
    (s.setSt a).setResultAndFlag x r c = (s.setResultAndFlag x r c).setSt a := by
  unfold State.setResultAndFlag
  rw [State.setSt_params]
  cases s.params.vfOrder <;> rfl

theorem State.pushThen_setSt (s : State) (a : Byte) (w : Word) (k : State → State)
    (hk : ∀ t : State, k (t.setSt a) = (k t).setSt a) :
    (s.setSt a).pushThen w k = (s.pushThen w k).setSt a := by
  unfold State.pushThen
  rw [apply_ite (State.setSt · a), ← hk]
  rfl

theorem State.popThen_setSt (s : State) (a : Byte) (k : Word → State → State)
    (hk : ∀ w (t : State), k w (t.setSt a) = (k w t).setSt a) :
    (s.setSt a).popThen k = (s.popThen k).setSt a := by
  unfold State.popThen
  rw [State.setSt_stack]
  cases s.stack with
  | nil => rfl
  | cons w rest => exact hk w (s.setStack rest)

theorem State.writeBytes_setSt (base : Nat) (bs : List Byte) (s : State) (a : Byte) :
    State.writeBytes base bs (s.setSt a) = (State.writeBytes base bs s).setSt a := by
  induction bs generalizing base s with
  | nil => rfl
  | cons b bs ih => exact ih (base + 1) (s.setByte base b)

theorem State.loadRegs_setSt (base n : Nat) (s : State) (a : Byte) :
    State.loadRegs base n (s.setSt a) = (State.loadRegs base n s).setSt a := by
  induction n with
  | zero => rfl
  | succ n ih =>
    rw [State.loadRegs, ih]
    rfl

theorem State.checkedRange_setSt (s : State) (a : Byte) (base n : Nat) (k : State → State)
    (hk : k (s.setSt a) = (k s).setSt a) :
    (s.setSt a).checkedRange base n k = (s.checkedRange base n k).setSt a := by
  unfold State.checkedRange
  rw [hk, apply_ite (State.setSt · a)]
  rfl

/-! ## What an instruction, an input and a step do to ST -/

/-- No instruction but LD ST,VX reads or writes ST. -/
theorem exec_setSt {i : Instr} {s t : State} (a : Byte) (hi : ∀ x, i ≠ .ldStVx x) (h : exec i s = .next t) :
    exec i (s.setSt a) = .next (t.setSt a) := by
  cases i
  all_goals obtain rfl := Host.Outcome.next.inj h
  case ldStVx x => exact absurd rfl (hi x)
  case ret => exact congrArg Host.Outcome.next (s.popThen_setSt a _ fun _ _ => rfl)
  case call => exact congrArg Host.Outcome.next (s.pushThen_setSt a _ _ fun _ => rfl)
  case seImm | sneImm | seReg | sneReg | skp | sknp => exact congrArg Host.Outcome.next (s.skipIf_setSt a _)
  case drw => exact congrArg Host.Outcome.next (s.checkedRange_setSt a _ _ _ rfl)
  case ldB | ldMemVx => exact congrArg Host.Outcome.next (s.checkedRange_setSt a _ _ _ (State.writeBytes_setSt _ _ s a))
  case ldVxMem => exact congrArg Host.Outcome.next (s.checkedRange_setSt a _ _ _ (State.loadRegs_setSt _ _ s a))
  case addReg | subReg | shr | subn | shl => exact congrArg Host.Outcome.next (s.setResultAndFlag_setSt a _ _ _)
  all_goals rfl

/-- Such an instruction leaves ST: executed with the ST it finds, it answers that ST. -/
theorem exec_st {i : Instr} {s t : State} (hi : ∀ x, i ≠ .ldStVx x) (h : exec i s = .next t) : t.st = s.st := by
  have e : t = t.setSt s.st := Host.Outcome.next.inj (h.symm.trans (exec_setSt s.st hi h))
  rw [e, State.setSt_st]

@[simp] theorem State.elapse_st (s : State) (u : Nat) : (s.elapse u).st = s.st := by rw [State.elapse_eq]

@[simp] theorem State.deliver_st (s : State) (k : Fin 16) : (s.deliver k).st = s.st := by
  rcases s.deliver_cases k with ⟨x, -, e⟩ | ⟨-, e⟩ <;> rw [e]
  rfl

@[simp] theorem State.writeBytes_st (base : Nat) (bs : List Byte) (s : State) :
    (State.writeBytes base bs s).st = s.st := by rw [State.writeBytes_eq]

@[simp] theorem State.load_st (s : State) (bytes : List Byte) : (s.load bytes).st = s.st := by
  rcases s.load_cases bytes with ⟨-, e⟩ | ⟨-, -, e⟩ | ⟨-, -, e⟩ <;> rw [e]
  · exact s.emit_st .imageTooLarge
  · exact State.writeBytes_st 0x200 bytes s

/-- Of the inputs reset alone touches ST. -/
theorem State.applyInput_st (s : State) {e : Input} (he : e ≠ .reset) : (s.applyInput e).st = s.st := by
  cases e with
  | elapse u => exact s.elapse_st u
  | key k down => exact s.setKey_st k down
  | deliver k => exact s.deliver_st k
  | load bytes => exact s.load_st bytes
  | reset => exact absurd rfl he

/-- A step keeps ST but for a reset and for LD ST,VX. -/
theorem step_st_cases {s t : State} (h : step s = .next t) :
    t.st = s.st ∨ (∃ rest, s.pending = .input .reset :: rest) ∨
    (∃ rest x, StepNext s rest ∧ s.pc.toNat ≤ 0xFFE ∧ decode s.params.decodeMode s.fetchWord = some (.ldStVx x)) := by
  rcases step_cases h with ⟨e, rest, hp, rfl⟩ | ⟨rest, -, -, rfl⟩ | ⟨rest, -, -, rfl⟩ | ⟨rest, i, hs, hpc, hd, hx⟩ |
    ⟨rest, -, -, -, rfl⟩
  · by_cases he : e = .reset
    · exact .inr (.inl ⟨rest, he ▸ hp⟩)
    · exact .inl (State.applyInput_st _ he)
  · exact .inl rfl
  · exact .inl rfl
  · by_cases hi : ∃ x, i = .ldStVx x
    · obtain ⟨x, rfl⟩ := hi
      exact .inr (.inr ⟨rest, x, hs, hpc, hd⟩)
    · exact .inl (exec_st (s := Executing s rest) (not_exists.mp hi) hx)
  · exact .inl rfl

/-- Settles O24: the write of ST, the cases of `step_st_cases`, and `exec_setSt` for the other instructions. -/
theorem soundTimerIsStoredOnly : Obligations.SoundTimerIsStoredOnly := by
  refine ⟨fun s x => ⟨s.setSt (s.reg x), rfl, rfl, s.frame_setSt _⟩, fun s t h hne => ?_,
    fun s e he => s.applyInput_st he, fun i s t a hi h => ⟨exec_st hi h, exec_setSt a hi h⟩, fun _ _ _ => rfl⟩
  rcases step_st_cases h with hkeep | hreset | ⟨rest, x, hs, hpc, hd⟩
  · exact absurd hkeep hne
  · exact .inr hreset
  · exact .inl ⟨rest, x, s.fetchWord, hs, hpc, (wordAt_iff s _).mpr rfl, hd⟩

/-! ## What a store of bytes and a bulk load leave unchanged -/

theorem State.frame_writeBytes (base : Nat) (bs : List Byte) (s : State) :
    Frame { base := base, len := bs.length } s (State.writeBytes base bs s) := by
  have hmem := State.writeBytes_byte_outside base bs s
  rw [State.writeBytes_eq] at hmem ⊢
  constructor
  case mem => exact hmem
  case dt | mode => exact fun _ => ⟨rfl, rfl⟩
  all_goals intros; rfl

/-- The bulk load's destinations are V0 to VX. -/
theorem mem_destinations_ldVxMem {x r : RegIdx} : r ∈ destinations (.ldVxMem x) ↔ r.toNat < x.toNat + 1 := by
  simp only [destinations, List.mem_map, List.mem_range]
  constructor
  · rintro ⟨k, hk, rfl⟩
    exact Nat.lt_of_le_of_lt (Nat.mod_le k 16) hk
  · exact fun h => ⟨r.toNat, h, by simp⟩

theorem State.frame_loadRegs (base : Nat) (s : State) (x : RegIdx) :
    Frame { regs := destinations (.ldVxMem x) } s (State.loadRegs base (x.toNat + 1) s) := by
  have hregs : ∀ r, r ∉ destinations (.ldVxMem x) → (State.loadRegs base (x.toNat + 1) s).reg r = s.reg r := by
    intro r hr
    rw [State.loadRegs_reg base _ s x.isLt, if_neg (mt mem_destinations_ldVxMem.mpr hr)]
  rw [State.loadRegs_eq] at hregs ⊢
  constructor
  case regs => exact hregs
  case dt | mode => exact fun _ => ⟨rfl, rfl⟩
  all_goals intros; rfl

/-! ## The bytes that are stored (R165, R166) -/

/-- The k-th byte stored by LD B is the k-th of the three decimal digits, the hundreds first. -/
theorem bcdDigits_getElem_toNat (a : Byte) (k : Nat) (hk : k < (bcdDigits a).length) :
    (bcdDigits a)[k].toNat = a.toNat / 10 ^ (2 - k) % 10 := by
  have ha := a.isLt
  match k, hk with
  | 0, _ =>
    show a.toNat / 100 % 256 = a.toNat / 100 % 10
    omega
  | 1, _ =>
    show a.toNat / 10 % 10 % 256 = a.toNat / 10 % 10
    omega
  | 2, _ =>
    show a.toNat % 10 % 256 = a.toNat / 1 % 10
    omega

@[simp] theorem State.firstRegs_getElem (s : State) (n k : Nat) (h : k < (s.firstRegs n).length) :
    (s.firstRegs n)[k] = s.reg (BitVec.ofNat 4 k) := by simp [State.firstRegs]

/-- Settles O31: `exec_ldB_cases` halts or stores, each excluding the other clause's premise; the stored digits read
back by `writeBytes_byte_inside`. -/
theorem bcdStoresThreeDigits : Obligations.BcdStoresThreeDigits := by
  intro s x hm
  rcases exec_ldB_cases s x with ⟨hout, hx⟩ | ⟨hin, hx⟩
  · exact ⟨fun h => by omega, fun _ => ⟨_, hx, s.halted_raise .memoryOutOfRange⟩⟩
  · have hdigit (k : Nat) (hk : k < 3) :
        ((State.writeBytes s.i.toNat (bcdDigits (s.reg x)) s).byte (s.i.toNat + k)).toNat =
          (s.reg x).toNat / 10 ^ (2 - k) % 10 :=
      (congrArg BitVec.toNat (State.writeBytes_byte_inside _ (bcdDigits (s.reg x)) s hm hin k hk)).trans
        (bcdDigits_getElem_toNat _ k hk)
    have hundreds : (s.reg x).toNat / 100 % 10 = (s.reg x).toNat / 100 := by
      have hlt := (s.reg x).isLt
      omega
    have ones : (s.reg x).toNat / 1 % 10 = (s.reg x).toNat % 10 := by rw [Nat.div_one]
    exact ⟨fun _ => ⟨_, hx, (hdigit 0 (by decide)).trans hundreds, hdigit 1 (by decide),
      (hdigit 2 (by decide)).trans ones, State.frame_writeBytes _ (bcdDigits (s.reg x)) s⟩, fun h => by omega⟩

/-- Settles O32: `exec_ldMemVx_cases` halts or stores, each excluding the other clause's premise; the k-th byte stored
is V[k]. -/
theorem bulkStoreWritesRegisters : Obligations.BulkStoreWritesRegisters := by
  intro s x hm
  rcases exec_ldMemVx_cases s x with ⟨hout, hx⟩ | ⟨hin, hx⟩
  · exact ⟨fun h => by omega, fun _ => ⟨_, hx, s.halted_raise .memoryOutOfRange⟩⟩
  · have hframe := State.frame_writeBytes s.i.toNat (s.firstRegs (x.toNat + 1)) s
    have hbyte := State.writeBytes_byte_inside s.i.toNat (s.firstRegs (x.toNat + 1)) s hm
    simp only [State.firstRegs_length, State.firstRegs_getElem] at hframe hbyte
    refine ⟨fun _ => ⟨_, hx, fun r hr => ?_, hframe⟩, fun h => by omega⟩
    rw [hbyte hin r.toNat (Nat.lt_succ_of_le hr), BitVec.ofNat_toNat, BitVec.setWidth_eq]

/-- Settles O33: `exec_ldVxMem_cases` halts or loads, each excluding the other clause's premise; `loadRegs_reg` is what
a load leaves in a register. -/
theorem bulkLoadReadsMemory : Obligations.BulkLoadReadsMemory := by
  intro s x
  rcases exec_ldVxMem_cases s x with ⟨hout, hx⟩ | ⟨hin, hx⟩
  · exact ⟨fun h => by omega, fun _ => ⟨_, hx, s.halted_raise .memoryOutOfRange⟩⟩
  · refine ⟨fun _ => ⟨_, hx, fun r hr => ?_, State.frame_loadRegs _ s x⟩, fun h => by omega⟩
    rw [State.loadRegs_reg _ _ s x.isLt, if_pos (Nat.lt_succ_of_le hr)]

end Sys2Proof.Machine

/-! PROOFS of the statements about the fatal faults: their precision (O37) and the halt state they leave (O43). -/

namespace Sys2Proof.Machine

section
variable {s t : State} {rest : List Move}

/-! ## The halt of an instruction and of a fetch -/

/-- An instruction that halts a core not yet halted has raised a fatal fault, with a cause, and done nothing else. -/
theorem exec_eq_raise_of_halt {i : Instr} (hm : s.mode ≠ .halt) (h : exec i s = .next t) (ht : t.mode = .halt) :
    ∃ c, c ≠ .none ∧ t = s.raise c := by
  rcases exec_mode_cases h with ⟨-, -, e⟩ | ⟨-, -, e⟩ | ⟨-, -, -, -, -, e⟩ | ⟨x, -, rfl⟩ | ⟨-, -, -, -, hkeep, -⟩
  · exact ⟨.stackUnderflow, by decide, e⟩
  · exact ⟨.stackOverflow, by decide, e⟩
  · exact ⟨.memoryOutOfRange, by decide, e⟩
  · exact nomatch (s.suspend_mode x).symm.trans ht
  · exact absurd (hkeep.symm.trans ht) hm

/-- A fault at the fetch keeps PC at A: it touches MODE, CAUSE and the pending moves alone (R97, R202). -/
theorem State.frame_setPending_raise (s : State) (rest : List Move) (c : Cause) :
    Frame { mode := true, pending := true } s ((s.setPending rest).raise c) := by
  constructor <;> simp

/-! ## The moves of a halted core -/

/-- In HALT a step request is taken and has no effect (R201). -/
theorem step_of_requestNext_of_halt (hm : s.mode = .halt) (hr : RequestNext s rest) :
    step s = .next (s.setPending rest) := by
  rw [step_of_requestNext hr]
  unfold requestStep
  rw [State.setPending_mode, hm]

theorem State.tick_mode (s : State) : s.tick.mode = s.mode := by rw [State.tick_eq]

/-- In HALT a load that fits is accepted (R255). -/
theorem State.load_of_halt {bytes : List Byte} (hm : s.mode = .halt) (hfit : bytes.length ≤ 3584) :
    s.load bytes = State.writeBytes 0x200 bytes s := by
  rcases s.load_cases bytes with ⟨⟨x, hx⟩, -⟩ | ⟨-, hlarge, -⟩ | ⟨-, -, e⟩
  · exact nomatch hm.symm.trans hx
  · exact absurd hfit (Nat.not_le.mpr hlarge)
  · exact e

theorem State.load_mode_cause (s : State) (bytes : List Byte) :
    (s.load bytes).mode = s.mode ∧ (s.load bytes).cause = s.cause := by
  rcases s.load_cases bytes with ⟨-, e⟩ | ⟨-, -, e⟩ | ⟨-, -, e⟩ <;> rw [e]
  · exact ⟨rfl, rfl⟩
  · exact ⟨s.emit_mode .imageTooLarge, s.emit_cause .imageTooLarge⟩
  · exact (State.frame_writeBytes 0x200 bytes s).mode rfl

/-- In HALT there is no key wait for a delivery to answer (R218). -/
theorem State.deliver_of_halt (hm : s.mode = .halt) (k : Fin 16) : s.deliver k = s := by
  rcases s.deliver_cases k with ⟨x, hx, -⟩ | ⟨-, e⟩
  · exact nomatch hm.symm.trans hx
  · exact e

/-- Of the inputs reset alone takes a halted core out of HALT or changes its CAUSE (R201). -/
theorem State.applyInput_mode_cause_of_halt (hm : s.mode = .halt) {e : Input} (he : e ≠ .reset) :
    (s.applyInput e).mode = .halt ∧ (s.applyInput e).cause = s.cause := by
  cases e with
  | elapse u =>
    rw [State.applyInput, State.elapse_eq]
    exact ⟨hm, rfl⟩
  | key k down => exact ⟨(s.setKey_mode k down).trans hm, s.setKey_cause k down⟩
  | deliver k =>
    rw [State.applyInput, State.deliver_of_halt hm]
    exact ⟨hm, rfl⟩
  | load bytes =>
    obtain ⟨hmode, hcause⟩ := s.load_mode_cause bytes
    exact ⟨hmode.trans hm, hcause⟩
  | reset => exact absurd rfl he

/-- A halted core stays halted with its CAUSE through every move but reset. -/
theorem step_mode_cause_of_halt (hm : s.mode = .halt) (h : step s = .next t)
    (hreset : ∀ rest, s.pending ≠ .input .reset :: rest) : t.mode = .halt ∧ t.cause = s.cause := by
  have hno : ∀ l, ¬ StepNext s l := fun _ hs => nomatch hm.symm.trans hs.1
  rcases step_cases h with ⟨e, rest, hp, rfl⟩ | ⟨rest, -, -, rfl⟩ | ⟨rest, hs, -⟩ | ⟨rest, -, hs, -⟩ | ⟨rest, hs, -⟩
  · have he : e ≠ .reset := fun he => hreset rest (he ▸ hp)
    exact State.applyInput_mode_cause_of_halt (s := s.setPending rest) hm he
  · exact ⟨hm, rfl⟩
  all_goals exact absurd hs (hno rest)

end

/-- Settles O37: a halting instruction has raised its fault by `exec_eq_raise_of_halt`, and a fetch out of range raises
its own before PC is advanced; `raise` touches MODE and CAUSE alone. -/
theorem fatalFaultsArePrecise : Obligations.FatalFaultsArePrecise := by
  refine ⟨fun i s t hm h ht => ?_, fun s rest h hpc => ?_⟩
  · obtain ⟨c, hc, rfl⟩ := exec_eq_raise_of_halt (hm ▸ nofun) h ht
    exact ⟨c, hc, s.halted_raise c⟩
  · exact ⟨_, step_of_fetch_out_of_range h hpc, rfl, rfl, rfl, s.frame_setPending_raise rest _⟩

/-- Settles O43: the step request, the tick, the load and every move but reset, each by its lemma about a halted core. -/
theorem haltIsLeftByResetOnly : Obligations.HaltIsLeftByResetOnly := by
  refine fun s hm => ⟨fun _ => step_of_requestNext_of_halt hm, fun _ => ⟨s.tick_dt, s.tick_mode.trans hm⟩,
    fun bytes rest hp hfit hwf => ?_, fun t => step_mode_cause_of_halt hm⟩
  have hload : (s.setPending rest).load bytes = State.writeBytes 0x200 bytes (s.setPending rest) :=
    State.load_of_halt hm hfit
  have hroom : 0x200 + bytes.length ≤ Config.memBytes := Nat.add_le_add_left hfit 0x200
  refine ⟨_, step_of_input hp, fun k hk => ?_⟩
  rw [State.applyInput, hload]
  exact State.writeBytes_byte_inside 0x200 bytes (s.setPending rest) hwf hroom k hk

end Sys2Proof.Machine

/-! PROOFS of the statements about the decoder: the two round trips between words and instructions (O51, O53), what lax
decoding adds to strict (O54), and the sample words (O55). -/

namespace Sys2Proof

/-! ## The decoder undoes the encoder -/

theorem decode_encode (m : DecodeMode) (i : Instr) : decode m (encode i) = some i := by
  cases i
  case cls | ret => cases m <;> rfl
  case seReg | sneReg => simp [encode, decode, decodeIfD0]
  case ldReg | orReg | andReg | xorReg | addReg | subReg | shr | subn | shl => simp [encode, decode, decodeFamily8]
  case skp | sknp => simp [encode, decode, decodeFamilyE]
  case ldVxDt | ldVxK | ldDtVx | ldStVx | addI | ldF | ldB | ldMemVx | ldVxMem =>
    simp [encode, decode, decodeFamilyF]
  all_goals simp [encode, decode]

theorem decodeBytes_encodeBytes (m : DecodeMode) (i : Instr) (rest : List Byte) :
    decodeBytes m (encodeBytes i ++ rest) = .ok (i, rest) := by
  simp only [encodeBytes, bytesOfWord, List.cons_append, List.nil_append, decodeBytes, wordOfBytes_bytesOfWord,
    decode_encode]

/-! ## The encoder undoes the strict decoder, family by family -/

theorem packXY_mask_y (f x y d : Nibble) : packXY f x y d &&& 0xFF0F#16 = packXY f x 0#4 d :=
  (BitVec.and_append (x₁ := f ++ x ++ y) (x₂ := 0xF#4 ++ 0xF#4 ++ 0#4) (y₁ := d) (y₂ := 0xF#4)).trans
    (by rw [BitVec.and_append, BitVec.and_zero, BitVec.and_append, show f &&& 0xF#4 = f from BitVec.and_allOnes,
          show x &&& 0xF#4 = x from BitVec.and_allOnes, show d &&& 0xF#4 = d from BitVec.and_allOnes]; rfl)

theorem encode_of_decodeFamily0 {x : Nibble} {nn : Byte} {i : Instr} (h : decodeFamily0 .strict x nn = some i) :
    encode i = packXI 0x0#4 x nn := by
  unfold decodeFamily0 at h
  split at h
  next => cases h
  next hx =>
    obtain rfl : x = 0#4 := by simpa using hx
    split at h <;> cases h <;> rfl

/-- The one word of family 8 that the encoder may write differently is that of SHL, whose Y it writes as 0. -/
theorem encode_of_decodeFamily8 {x y d : Nibble} {i : Instr} (h : decodeFamily8 x y d = some i) :
    encode i = packXY 0x8#4 x y d ∨ ((∃ x, i = .shl x) ∧ encode i = packXY 0x8#4 x 0#4 d) := by
  unfold decodeFamily8 at h
  split at h
  case h_9 =>
    cases h
    exact .inr ⟨⟨x, rfl⟩, rfl⟩
  case h_10 => cases h
  all_goals
    cases h
    exact .inl rfl

theorem encode_of_decodeFamilyE {x : Nibble} {nn : Byte} {i : Instr} (h : decodeFamilyE x nn = some i) :
    encode i = packXI 0xE#4 x nn := by
  unfold decodeFamilyE at h
  split at h <;> cases h <;> rfl

theorem encode_of_decodeFamilyF {x : Nibble} {nn : Byte} {i : Instr} (h : decodeFamilyF x nn = some i) :
    encode i = packXI 0xF#4 x nn := by
  unfold decodeFamilyF at h
  split at h <;> cases h <;> rfl

theorem encode_of_decode {w : Word} {i : Instr} (h : decode .strict w = some i) :
    encode i = w ∨ ((∃ x, i = .shl x) ∧ encode i = w &&& 0xFF0F#16) := by
  unfold decode at h
  split at h
  case h_1 hf => exact .inl (by rw [encode_of_decodeFamily0 h, ← hf, packXI_fields])
  case h_2 hf | h_3 hf | h_11 hf | h_12 hf =>
    cases h
    exact .inl (by rw [encode, ← hf, packA_fields])
  case h_4 hf | h_5 hf | h_7 hf | h_8 hf | h_13 hf =>
    cases h
    exact .inl (by rw [encode, ← hf, packXI_fields])
  case h_6 hf | h_10 hf =>
    obtain ⟨hd, rfl⟩ := decodeIfD0_strict_eq_some.mp h
    exact .inl (by rw [encode, ← hf, ← hd, packXY_fields])
  case h_9 hf =>
    have hw : packXY 0x8#4 (fieldX w) (fieldY w) (fieldD w) = w := hf ▸ packXY_fields w
    have henc := encode_of_decodeFamily8 h
    rwa [← packXY_mask_y _ _ (fieldY w), hw] at henc
  case h_14 hf =>
    cases h
    exact .inl (by rw [encode, ← hf, packXY_fields])
  case h_15 hf => exact .inl (by rw [encode_of_decodeFamilyE h, ← hf, packXI_fields])
  case h_16 =>
    have hf : fieldF w = 0xF#4 := eq_F_of_notMem _ (by simp_all)
    exact .inl (by rw [encode_of_decodeFamilyF h, ← hf, packXI_fields])

/-! ## Lax decoding in the three families where it differs -/

section
variable {m : DecodeMode} {w : Word}

theorem decode_of_family0 (hf : fieldF w = 0x0#4) : decode m w = decodeFamily0 m (fieldX w) (fieldNN w) := by
  simp only [decode, hf]

theorem decode_of_family5 (hf : fieldF w = 0x5#4) :
    decode m w = decodeIfD0 m (fieldD w) (.seReg (fieldX w) (fieldY w)) := by
  simp only [decode, hf]

theorem decode_of_family9 (hf : fieldF w = 0x9#4) :
    decode m w = decodeIfD0 m (fieldD w) (.sneReg (fieldX w) (fieldY w)) := by
  simp only [decode, hf]

theorem decode_lax_eq_strict (h0 : fieldF w ≠ 0x0#4) (h5 : fieldF w ≠ 0x5#4) (h9 : fieldF w ≠ 0x9#4) :
    decode .lax w = decode .strict w := by
  unfold decode
  split
  case h_1 hf => exact absurd hf h0
  case h_6 hf => exact absurd hf h5
  case h_10 hf => exact absurd hf h9
  all_goals rfl

end

theorem decodeFamily0_lax (x : Nibble) (nn : Byte) : decodeFamily0 .lax x nn =
    if nn = 0xE0#8 then some .cls else if nn = 0xEE#8 then some .ret else none := by
  unfold decodeFamily0
  rw [if_neg (by simp)]
  split <;> simp_all

theorem decodeFamily0_lax_of_strict {x : Nibble} {nn : Byte} {i : Instr} (h : decodeFamily0 .strict x nn = some i) :
    decodeFamily0 .lax x nn = some i := by
  unfold decodeFamily0 at h ⊢
  split at h
  next => cases h
  next => exact (if_neg (by simp)).trans h

@[simp] theorem decodeIfD0_lax (d : Nibble) (i : Instr) : decodeIfD0 .lax d i = some i := by simp [decodeIfD0]

theorem decodeIfD0_lax_of_strict {d : Nibble} {i j : Instr} (h : decodeIfD0 .strict d i = some j) :
    decodeIfD0 .lax d i = some j :=
  (decodeIfD0_lax d i).trans (congrArg some (decodeIfD0_strict_eq_some.mp h).2)

theorem decode_lax_of_strict {w : Word} {i : Instr} (h : decode .strict w = some i) : decode .lax w = some i := by
  by_cases h0 : fieldF w = 0x0#4
  · rw [decode_of_family0 h0] at h ⊢
    exact decodeFamily0_lax_of_strict h
  by_cases h5 : fieldF w = 0x5#4
  · rw [decode_of_family5 h5] at h ⊢
    exact decodeIfD0_lax_of_strict h
  by_cases h9 : fieldF w = 0x9#4
  · rw [decode_of_family9 h9] at h ⊢
    exact decodeIfD0_lax_of_strict h
  exact (decode_lax_eq_strict h0 h5 h9).trans h

/-! ## The fields as numbers (R13) -/

theorem fieldF_eq_iff (w : Word) (f : Nibble) : fieldF w = f ↔ w.toNat / 4096 = f.toNat := by
  have hw := w.isLt
  rw [← BitVec.toNat_inj, fieldF, BitVec.extractLsb'_toNat, Nat.shiftRight_eq_div_pow]
  omega

theorem fieldNN_eq_iff (w : Word) (nn : Byte) : fieldNN w = nn ↔ w.toNat % 256 = nn.toNat := by
  rw [← BitVec.toNat_inj, fieldNN, BitVec.extractLsb'_toNat, Nat.shiftRight_eq_div_pow]
  omega

theorem fieldX_eq_ofNat (w : Word) : fieldX w = BitVec.ofNat 4 (w.toNat / 256) :=
  congrArg (BitVec.ofNat 4) (Nat.shiftRight_eq_div_pow w.toNat 8)

theorem fieldY_eq_ofNat (w : Word) : fieldY w = BitVec.ofNat 4 (w.toNat / 16) :=
  congrArg (BitVec.ofNat 4) (Nat.shiftRight_eq_div_pow w.toNat 4)

end Sys2Proof

namespace Sys2Proof.Machine

/-- Settles O51: `decode_encode`, and the word put together from its two bytes. -/
theorem decodeInvertsEncode : Obligations.DecodeInvertsEncode := fun m i rest _ =>
  ⟨decode_encode m i, decodeBytes_encodeBytes m i rest⟩

/-- Settles O53: `encode_of_decode`, in whose family 8 the encoder may write another Y for SHL. -/
theorem encodeInvertsDecode : Obligations.EncodeInvertsDecode := fun _ _ => encode_of_decode

/-- Settles O54: the lax decoder in families 0, 5 and 9, and its agreement with the strict one in the others. -/
theorem laxDecodingExtendsStrict : Obligations.LaxDecodingExtendsStrict := by
  refine fun w => ⟨fun i => decode_lax_of_strict, fun hstrict => ?_⟩
  rw [← fieldX_eq_ofNat, ← fieldY_eq_ofNat]
  have h0 := fieldF_eq_iff w 0x0#4
  have h5 := fieldF_eq_iff w 0x5#4
  have h9 := fieldF_eq_iff w 0x9#4
  have hE0 := fieldNN_eq_iff w 0xE0#8
  have hEE := fieldNN_eq_iff w 0xEE#8
  simp only [BitVec.reduceToNat] at h0 h5 h9 hE0 hEE
  simp only [← h0, ← h5, ← h9, ← hE0, ← hEE]
  by_cases hf0 : fieldF w = 0x0#4
  · rw [decode_of_family0 hf0, decodeFamily0_lax]
    simp [hf0]
  by_cases hf5 : fieldF w = 0x5#4
  · rw [decode_of_family5 hf5, decodeIfD0_lax]
    simp [hf5]
  by_cases hf9 : fieldF w = 0x9#4
  · rw [decode_of_family9 hf9, decodeIfD0_lax]
    simp [hf9]
  rw [decode_lax_eq_strict hf0 hf5 hf9, hstrict]
  simp [hf0, hf5, hf9]

/-- Settles O55: each word is evaluated by the decoder. -/
theorem sampleWordsDecode : Obligations.SampleWordsDecode := by
  unfold Obligations.SampleWordsDecode
  decide

end Sys2Proof.Machine

/-! PROOFS of the statements about what an instruction may change and how it ends: what it writes (O39), VF (O38), the
fatal faults (O36), the answer of every instruction and step (O35), and the three ways a step ends (O42). -/

namespace Sys2Proof.Machine

/-! ## Frames of the single operations -/

theorem State.frame_refl (c : Touch) (s : State) : Frame c s s := by constructor <;> simp

theorem Frame.allowMode {c : Touch} {s t : State} (h : Frame c s t) : Frame { c with mode := true } s t :=
  { h with mode := nofun }

/-- A fatal fault changes MODE and CAUSE alone (R200), so it is within every frame that allows these. -/
theorem State.frame_raise {c : Touch} (s : State) (k : Cause) (hc : c.mode = true) : Frame c s (s.raise k) := by
  constructor <;> simp [hc]

theorem State.frame_suspend (s : State) (x : RegIdx) : Frame { mode := true } s (s.suspend x) := by
  constructor <;> simp

theorem State.frame_countDraw_setReg (s : State) (x : RegIdx) (a : Byte) :
    Frame { regs := [x], draws := true } s (s.countDraw.setReg x a) := by
  constructor
  case regs => exact fun r hr => s.countDraw.setReg_reg_of_ne x a r (List.ne_of_not_mem_cons hr)
  all_goals simp

/-! ## What an instruction may change -/

/-- What an instruction may change, executed in `s`; MODE and CAUSE where it may halt or wait for a key. -/
def Instr.touch (s : State) : Instr → Touch
  | .cls => { fb := true }
  | .ret | .call _ => { pc := true, stack := true, mode := true }
  | .jp _ | .jpV0 _ | .seImm _ _ | .sneImm _ _ | .seReg _ _ | .sneReg _ _ | .skp _ | .sknp _ => { pc := true }
  | .ldImm x _ | .addImm x _ | .ldReg x _ | .orReg x _ | .andReg x _ | .xorReg x _ | .ldVxDt x => { regs := [x] }
  | .addReg x _ | .subReg x _ | .shr x _ | .subn x _ | .shl x => { regs := [x, VF] }
  | .ldI _ | .ldF _ => { i := true }
  | .addI _ => { i := true, regs := [VF] }
  | .rnd x _ => { regs := [x], draws := true }
  | .drw _ _ _ => { regs := [VF], fb := true, outputs := true, mode := true }
  | .ldVxK _ => { mode := true }
  | .ldDtVx _ => { dt := true }
  | .ldStVx _ => { st := true }
  | .ldB _ => { base := s.i.toNat, len := 3, mode := true }
  | .ldMemVx x => { base := s.i.toNat, len := x.toNat + 1, mode := true }
  | .ldVxMem x => { regs := destinations (.ldVxMem x), mode := true }

/-- An instruction changes nothing but what `Instr.touch` names. -/
theorem exec_frame {i : Instr} {s t : State} (h : exec i s = .next t) : Frame (Instr.touch s i) s t := by
  cases i
  case ret =>
    rcases exec_ret_cases s with ⟨-, e⟩ | ⟨a, rest, -, e⟩ <;> obtain rfl := Host.Outcome.next.inj (h.symm.trans e)
    · exact s.frame_raise _ rfl
    · exact (s.frame_setStack_setPc rest a).allowMode
  case call nnn =>
    rcases exec_call_cases s nnn with ⟨-, e⟩ | ⟨-, e⟩ <;> obtain rfl := Host.Outcome.next.inj (h.symm.trans e)
    · exact s.frame_raise _ rfl
    · exact (s.frame_setStack_setPc _ _).allowMode
  case drw x y n =>
    rcases exec_drw_cases s x y n with ⟨-, -, e⟩ | ⟨-, e⟩ <;> obtain rfl := Host.Outcome.next.inj (h.symm.trans e)
    · exact s.frame_raise _ rfl
    · exact (s.frame_setFb_setFlag_present _ _).allowMode
  case ldB x =>
    rcases exec_ldB_cases s x with ⟨-, e⟩ | ⟨-, e⟩ <;> obtain rfl := Host.Outcome.next.inj (h.symm.trans e)
    · exact s.frame_raise _ rfl
    · exact (State.frame_writeBytes _ (bcdDigits (s.reg x)) s).allowMode
  case ldMemVx x =>
    rcases exec_ldMemVx_cases s x with ⟨-, e⟩ | ⟨-, e⟩ <;> obtain rfl := Host.Outcome.next.inj (h.symm.trans e)
    · exact s.frame_raise _ rfl
    · have hframe := State.frame_writeBytes s.i.toNat (s.firstRegs (x.toNat + 1)) s
      rw [State.firstRegs_length] at hframe
      exact hframe.allowMode
  case ldVxMem x =>
    rcases exec_ldVxMem_cases s x with ⟨-, e⟩ | ⟨-, e⟩ <;> obtain rfl := Host.Outcome.next.inj (h.symm.trans e)
    · exact s.frame_raise _ rfl
    · exact (State.frame_loadRegs _ s x).allowMode
  all_goals obtain rfl := Host.Outcome.next.inj h
  case cls => exact s.frame_clear
  case jp | jpV0 => exact s.frame_setPc _
  case seImm | sneImm | seReg | sneReg | skp | sknp => exact s.frame_skipIf _
  case ldImm | addImm | ldReg | orReg | andReg | xorReg | ldVxDt => exact s.frame_setReg _ _
  case addReg | subReg | shr | subn | shl => exact s.frame_setResultAndFlag _ _ _
  case ldI | ldF => exact s.frame_setI _
  case addI => exact s.frame_setI_setFlag _ _
  case rnd => exact s.frame_countDraw_setReg _ _
  case ldVxK => exact s.frame_suspend _
  case ldDtVx => exact s.frame_setDt _
  case ldStVx => exact s.frame_setSt _

section
variable {i : Instr} (s : State)

theorem Instr.touch_stack (hret : i ≠ .ret) (hcall : ∀ nnn, i ≠ .call nnn) : (Instr.touch s i).stack = false := by
  cases i with
  | ret => exact absurd rfl hret
  | call nnn => exact absurd rfl (hcall nnn)
  | _ => rfl

theorem Instr.touch_fb (hcls : i ≠ .cls) (hdrw : ∀ x y n, i ≠ .drw x y n) : (Instr.touch s i).fb = false := by
  cases i with
  | cls => exact absurd rfl hcls
  | drw x y n => exact absurd rfl (hdrw x y n)
  | _ => rfl

theorem Instr.touch_len (hb : ∀ x, i ≠ .ldB x) (hbulk : ∀ x, i ≠ .ldMemVx x) : (Instr.touch s i).len = 0 := by
  cases i with
  | ldB x => exact absurd rfl (hb x)
  | ldMemVx x => exact absurd rfl (hbulk x)
  | _ => rfl

theorem Instr.touch_i (hld : ∀ nnn, i ≠ .ldI nnn) (hadd : ∀ x, i ≠ .addI x) (hglyph : ∀ x, i ≠ .ldF x) :
    (Instr.touch s i).i = false := by
  cases i with
  | ldI nnn => exact absurd rfl (hld nnn)
  | addI x => exact absurd rfl (hadd x)
  | ldF x => exact absurd rfl (hglyph x)
  | _ => rfl

theorem Instr.touch_dt (hdt : ∀ x, i ≠ .ldDtVx x) : (Instr.touch s i).dt = false := by
  cases i with
  | ldDtVx x => exact absurd rfl (hdt x)
  | _ => rfl

theorem Instr.touch_outputs (hdrw : ∀ x y n, i ≠ .drw x y n) : (Instr.touch s i).outputs = false := by
  cases i with
  | drw x y n => exact absurd rfl (hdrw x y n)
  | _ => rfl

/-- The registers an instruction may change: its destinations, and VF of a flag writer. -/
theorem Instr.mem_touch_regs {r : RegIdx} (h : r ∈ (Instr.touch s i).regs) :
    r ∈ destinations i ∨ (r = VF ∧ writesFlag i = true) := by
  cases i
  case addReg | subReg | shr | subn | shl =>
    rcases List.mem_cons.mp h with hx | hf
    · exact .inl (List.mem_singleton.mpr hx)
    · exact .inr ⟨List.mem_singleton.mp hf, rfl⟩
  case addI | drw => exact .inr ⟨List.mem_singleton.mp h, rfl⟩
  all_goals exact .inl h

end

/-- Settles O39: the frame of the instruction, which names a field only for the instructions excepted. -/
theorem whichInstructionsWriteWhat : Obligations.WhichInstructionsWriteWhat := by
  intro i s t h
  have hframe := exec_frame h
  refine ⟨fun hret hcall => hframe.stack (Instr.touch_stack s hret hcall),
    fun hcls hdrw => hframe.fb (Instr.touch_fb s hcls hdrw), fun hb hbulk a => hframe.mem a ?_,
    fun hld hadd hglyph => hframe.i (Instr.touch_i s hld hadd hglyph), fun hdt => hframe.dt (Instr.touch_dt s hdt),
    fun hret hjp hcall hjpV0 hse hsne hseReg hsneReg hskp hsknp => hframe.pc ?_,
    fun hdrw => hframe.outputs (Instr.touch_outputs s hdrw), hframe.unk ?_, hframe.keys ?_, hframe.pending ?_,
    hframe.params⟩
  · rw [Instr.touch_len s hb hbulk]
    omega
  · cases i with
    | ret => exact absurd rfl hret
    | jp nnn => exact absurd rfl (hjp nnn)
    | call nnn => exact absurd rfl (hcall nnn)
    | jpV0 nnn => exact absurd rfl (hjpV0 nnn)
    | seImm x nn => exact absurd rfl (hse x nn)
    | sneImm x nn => exact absurd rfl (hsne x nn)
    | seReg x y => exact absurd rfl (hseReg x y)
    | sneReg x y => exact absurd rfl (hsneReg x y)
    | skp x => exact absurd rfl (hskp x)
    | sknp x => exact absurd rfl (hsknp x)
    | _ => rfl
  all_goals cases i <;> rfl

/-! ## The flag that a flag writer leaves in VF -/

theorem flagByte_eq_zero_or_one (c : Bool) : flagByte c = 0#8 ∨ flagByte c = 1#8 := by cases c <;> decide

/-- VF holds the flag unless X = 15 and the result is written last (R120). -/
theorem State.setResultAndFlag_reg_vf (s : State) {x : RegIdx} (a : Byte) (c : Bool)
    (h : x = VF → s.params.vfOrder = .flagLast) : (s.setResultAndFlag x a c).reg VF = flagByte c := by
  obtain ⟨hne, hlast, -⟩ := s.resultAndFlag_setResultAndFlag x a c
  by_cases hx : x = VF
  · exact hlast hx (h hx)
  · exact (hne hx).2

/-- A flag writer that does not halt leaves a flag in VF. -/
theorem exec_reg_vf {i : Instr} {s t : State} (h : exec i s = .next t) (hi : writesFlag i = true)
    (ht : t.mode ≠ .halt) (horder : VF ∈ destinations i → s.params.vfOrder = .flagLast) :
    ∃ c, t.reg VF = flagByte c := by
  cases i
  case drw x y n =>
    rcases exec_drw_cases s x y n with ⟨-, -, e⟩ | ⟨-, e⟩ <;> obtain rfl := Host.Outcome.next.inj (h.symm.trans e)
    · exact absurd rfl ht
    · exact ⟨_, s.setFb_setFlag_present_reg_vf _ _⟩
  case addI x =>
    obtain rfl := Host.Outcome.next.inj h
    exact ⟨_, (State.setFlag_reg _ _ VF).trans (if_pos rfl)⟩
  case addReg | subReg | shr | subn | shl =>
    obtain rfl := Host.Outcome.next.inj h
    exact ⟨_, s.setResultAndFlag_reg_vf _ _ fun hx => horder (List.mem_singleton.mpr hx.symm)⟩
  all_goals exact nomatch hi

/-- Settles O38: `Instr.mem_touch_regs` for the registers that stay, `exec_reg_vf` for the flag. -/
theorem vfIsWrittenByNoOther : Obligations.VfIsWrittenByNoOther := by
  refine fun i s t h => ⟨fun r hr hvf => (exec_frame h).regs r fun hmem => ?_, fun hi _ ht horder => ?_⟩
  · rcases Instr.mem_touch_regs s hmem with hdest | ⟨hrf, hflag⟩
    · exact hr hdest
    · exact Bool.false_ne_true ((hvf hrf).symm.trans hflag)
  · obtain ⟨c, hc⟩ := exec_reg_vf h hi (ht ▸ nofun) horder
    rw [hc]
    exact flagByte_eq_zero_or_one c

/-! ## How an instruction ends -/

/-- An instruction completes with MODE and CAUSE as they were, suspends its step for a key, or raises a fatal fault. -/
theorem exec_ends {i : Instr} {s t : State} (h : exec i s = .next t) :
    (t.mode = s.mode ∧ t.cause = s.cause) ∨ (∃ x, i = .ldVxK x ∧ t = s.suspend x) ∨
    (∃ c, c ≠ .none ∧ t = s.raise c) := by
  rcases exec_mode_cases h with ⟨-, -, e⟩ | ⟨-, -, e⟩ | ⟨-, -, -, -, -, e⟩ | hwait | ⟨-, -, -, -, hkeep⟩
  · exact .inr (.inr ⟨.stackUnderflow, by decide, e⟩)
  · exact .inr (.inr ⟨.stackOverflow, by decide, e⟩)
  · exact .inr (.inr ⟨.memoryOutOfRange, by decide, e⟩)
  · exact .inr (.inl hwait)
  · exact .inl hkeep

/-- Settles O36: the five cases of `exec_mode_cases`; each of the three faults excludes the conditions of the others. -/
theorem fatalFaultsExactly : Obligations.FatalFaultsExactly := by
  intro i s t hm h
  rcases exec_mode_cases h with ⟨rfl, hempty, rfl⟩ | ⟨⟨nnn, rfl⟩, hfull, rfl⟩ | ⟨b, n, hacc, hpos, hout, rfl⟩ |
    ⟨x, rfl, rfl⟩ | ⟨-, hret, hcall, hrange, hmode, -⟩
  · simp [hempty, memAccess]
  · simp [(s.stackFull_iff).mp hfull, memAccess]
  · have hret : i ≠ .ret := by rintro rfl; cases hacc
    have hcall : ∀ nnn, i ≠ .call nnn := by rintro nnn rfl; cases hacc
    have habove : 0xFFF < b + n - 1 := by omega
    simp [hret, hcall, hacc, hpos, habove]
  · simp [memAccess]
  · have hrun : t.mode ≠ .halt := by simp [hmode, hm]
    refine ⟨iff_of_false (fun ht => hrun ht.1) fun ⟨hi, hempty⟩ => hret hi hempty,
      iff_of_false (fun ht => hrun ht.1) fun ⟨hi, hfull⟩ => ?_,
      iff_of_false (fun ht => hrun ht.1) fun ⟨b, n, hacc, hpos, hout⟩ => ?_, fun ht => absurd ht hrun⟩
    · exact Bool.false_ne_true ((hcall hi).symm.trans ((s.stackFull_iff).mpr hfull))
    · rcases hrange b n hacc with h0 | hle <;> omega

theorem exec_total (i : Instr) (s : State) : ∃ t, exec i s = .next t := by
  cases i <;> exact ⟨_, rfl⟩

theorem requestStep_total (s : State) : ∃ t, requestStep s = .next t := by
  unfold requestStep fetchAndRun runWord
  split
  · split
    · exact ⟨_, rfl⟩
    · split
      · exact exec_total _ _
      · exact ⟨_, rfl⟩
  all_goals exact ⟨_, rfl⟩

theorem step_total (s : State) : ∃ t, step s = .next t := by
  unfold step nextMove
  split
  · exact requestStep_total _
  · exact requestStep_total _
  · exact ⟨_, rfl⟩

/-- Settles O35: `exec_total` and `step_total`. -/
theorem everyInstructionAndStepAnswersNext : Obligations.EveryInstructionAndStepAnswersNext :=
  ⟨exec_total, step_total⟩

/-- Settles O42: a fetch out of range halts, a diagnostic runs on, an instruction ends in the ways of `exec_ends`. -/
theorem stepEndsInOneOfThreeWays : Obligations.StepEndsInOneOfThreeWays := by
  intro s rest hs
  obtain ⟨t, h⟩ := step_total s
  refine ⟨t, h, ?_⟩
  rcases step_cases h with ⟨e, l, hp, -⟩ | ⟨-, -, hm, -⟩ | ⟨l, -, -, rfl⟩ | ⟨l, i, -, -, hd, hx⟩ | ⟨l, -, -, -, rfl⟩
  · exact absurd hp (hs.2.pending_ne_input e l)
  · exact absurd hs.1 hm
  · exact ⟨.inr (.inr ⟨rfl, nofun⟩), fun _ => ⟨rfl, rfl⟩⟩
  · rcases exec_ends hx with ⟨hmode, -⟩ | ⟨x, rfl, rfl⟩ | ⟨c, hc, rfl⟩
    · have hrun : t.mode = .run := hmode.trans hs.1
      exact ⟨.inl hrun, fun ht => nomatch hrun.symm.trans ht⟩
    · exact ⟨.inr (.inl ⟨x, _, (wordAt_iff s _).mpr rfl, hd, rfl, rfl⟩), nofun⟩
    · exact ⟨.inr (.inr ⟨rfl, hc⟩), fun _ => ⟨rfl, rfl⟩⟩
  · have hrun : ((Executing s l).diagUnknown s.fetchWord s.pc).mode = .run := hs.1
    exact ⟨.inl hrun, fun ht => nomatch hrun.symm.trans ht⟩

end Sys2Proof.Machine

/-! PROOFS of the statements about the inputs and the steps that are no instruction: time, keys, load and reset (O45, O23,
O25 to O28, O49, O50), and the key wait (O29, O30). -/

namespace Sys2Proof.Machine

/-! ## What an input may change -/

section
variable {c : Touch} {s t : State} {rest : List Move}

theorem Frame.allowDt (h : Frame c s t) : Frame { c with dt := true } s t := { h with dt := nofun }

theorem Frame.allowKeys (h : Frame c s t) : Frame { c with keys := true } s t := { h with keys := nofun }

theorem Frame.allowOutputs (h : Frame c s t) : Frame { c with outputs := true } s t := { h with outputs := nofun }

/-- A frame after the next move is taken is a frame of the whole step. -/
theorem Frame.of_setPending (h : Frame c (s.setPending rest) t) : Frame { c with pending := true } s t :=
  { h with pending := nofun }

end

section
variable (s : State)

theorem State.frame_setPending (l : List Move) : Frame { pending := true } s (s.setPending l) := by
  constructor <;> simp

theorem State.frame_tick : Frame { dt := true } s s.tick := by
  rw [State.tick_eq]
  constructor
  case dt => exact nofun
  case mode => exact fun _ => ⟨rfl, rfl⟩
  all_goals intros; rfl

theorem State.frame_elapse (u : Nat) : Frame { dt := true } s (s.elapse u) := by
  rw [State.elapse_eq]
  constructor
  case dt => exact nofun
  case mode => exact fun _ => ⟨rfl, rfl⟩
  all_goals intros; rfl

theorem State.frame_setKey (k : Fin 16) (down : Bool) : Frame { keys := true } s (s.setKey k down) := by
  constructor <;> simp

theorem State.frame_emit (o : Output) : Frame { outputs := true } s (s.emit o) := by constructor <;> simp

/-- What a delivery does to a key wait (R161): VX and MODE, and nothing else. -/
theorem State.frame_setReg_resume (x : RegIdx) (a : Byte) :
    Frame { regs := [x], mode := true } s (s.setReg x a).resume := by
  constructor
  case regs => exact fun r hr => s.setReg_reg_of_ne x a r (List.ne_of_not_mem_cons hr)
  all_goals simp

end

/-- Settles O45: the frames of a passage of time and of a key change; a delivery only answers a key wait. -/
theorem inputsChangeOnlyTheirOwnState : Obligations.InputsChangeOnlyTheirOwnState := by
  refine fun s => ⟨s.frame_elapse, fun k down => ⟨?_, fun j hj => ?_, s.frame_setKey k down⟩, fun k hm => ?_⟩
  · exact Vector.getElem_set_self k.isLt
  · exact Vector.getElem_set_ne k.isLt j.isLt fun e => hj (Fin.ext e.symm)
  · rcases s.deliver_cases k with ⟨x, hx, -⟩ | ⟨-, e⟩
    · exact absurd hx (hm x)
    · exact e

/-! ## The delay timer -/

/-- Settles O23: one register write of DT. -/
theorem delayTimerIsRead : Obligations.DelayTimerIsRead := fun s x =>
  ⟨s.setReg x s.dt, rfl, s.setReg_reg_self x s.dt, s.frame_setReg x s.dt⟩

/-- Settles O26: `tick_dt`, and `tick_eq` for all that is not DT. -/
theorem tickCountsDownToZero : Obligations.TickCountsDownToZero := by
  refine fun s => ⟨fun _ => s.tick_dt, fun h0 => ?_, s.frame_tick, by rw [State.tick_eq]⟩
  unfold State.tick
  rw [if_pos h0, h0]

/-- The whole sixtieths of a time and of a later one, with the phase between them, are those of the sum (R211). -/
theorem div_add_div_of_phase (p u v : Nat) {k : Nat} (hk : 0 < k) :
    (p + u) / k + ((p + u) % k + v) / k = (p + (u + v)) / k := by
  rw [← Nat.add_assoc p u v, Nat.add_comm ((p + u) / k), ← Nat.add_mul_div_left _ _ hk]
  congr 1
  have hsplit := Nat.mod_add_div (p + u) k
  omega

/-- DT after any passages of time: down by the whole sixtieths of their sum, counted from the last tick. -/
theorem State.foldl_elapse_dt (times : List Nat) (s : State) (hphase : s.phase < s.params.unitsPerTick) :
    (times.foldl State.elapse s).dt.toNat = s.dt.toNat - (s.phase + times.sum) / s.params.unitsPerTick := by
  induction times generalizing s with
  | nil => simp [Nat.div_eq_of_lt hphase]
  | cons u times ih =>
    have hpos : 0 < s.params.unitsPerTick := Nat.zero_lt_of_lt hphase
    have hparams : (s.elapse u).params = s.params := (s.frame_elapse u).params
    have hnext : (s.elapse u).phase < (s.elapse u).params.unitsPerTick := by
      rw [hparams, State.elapse_phase]
      exact Nat.mod_lt _ hpos
    rw [List.foldl_cons, ih _ hnext, hparams, State.elapse_dt, State.elapse_phase, Nat.sub_sub,
      div_add_div_of_phase _ _ _ hpos, List.sum_cons]

/-- A tick has at least one time unit (log 9). -/
theorem Params.unitsPerTick_pos {p : Params} (h : p.wellFormed = true) : 0 < p.unitsPerTick := by
  unfold Params.wellFormed at h
  exact of_decide_eq_true (Bool.and_eq_true_iff.mp h).2

/-- Settles O25: LD DT,VX restarts the phase, so the ticks after it are the whole sixtieths of the total time. -/
theorem delayTimerReadAfterElapsedTime : Obligations.DelayTimerReadAfterElapsedTime := by
  intro s t x y times hwf h
  obtain rfl : s.setDt (s.reg x) = t := Host.Outcome.next.inj h
  refine ⟨_, rfl, ?_⟩
  rw [State.setReg_reg_self, State.foldl_elapse_dt times _ (Params.unitsPerTick_pos hwf)]
  simp

/-- Settles O27: n whole sixtieths end in n ticks, and leave the phase below one sixtieth as it was. -/
theorem sixtyTicksASecond : Obligations.SixtyTicksASecond := by
  intro s n rest hinv hp
  have hphase := hinv.phaseWf
  have hpos : 0 < s.params.unitsPerTick := Nat.zero_lt_of_lt hphase
  have hframe := (s.setPending rest).frame_elapse (n * s.params.unitsPerTick)
  refine ⟨_, step_of_input hp, ?_, ?_, hframe.pending rfl, hframe.of_setPending⟩
  · rw [State.applyInput, State.elapse_dt]
    simp [Nat.add_mul_div_right _ _ hpos, Nat.div_eq_of_lt hphase]
  · simp [State.applyInput, Nat.mod_eq_of_lt hphase]

/-- No input raises DT. -/
theorem State.applyInput_dt_le (s : State) (e : Input) : (s.applyInput e).dt.toNat ≤ s.dt.toNat := by
  cases e with
  | elapse u =>
    rw [State.applyInput, State.elapse_dt]
    exact Nat.sub_le _ _
  | key k down => exact Nat.le_refl _
  | deliver k =>
    rcases s.deliver_cases k with ⟨x, -, e⟩ | ⟨-, e⟩ <;> rw [State.applyInput, e]
    exact Nat.le_refl _
  | load bytes =>
    rcases s.load_cases bytes with ⟨-, e⟩ | ⟨-, -, e⟩ | ⟨-, -, e⟩ <;> rw [State.applyInput, e]
    · exact Nat.le_refl _
    · exact Nat.le_of_eq (congrArg BitVec.toNat ((State.frame_writeBytes 0x200 bytes s).dt rfl).1)
  | reset => exact Nat.zero_le _

/-- Settles O28: no input raises DT, and of the instructions LD DT,VX alone touches it. -/
theorem delayTimerNeverIncreases : Obligations.DelayTimerNeverIncreases := by
  intro s t h hlt
  rcases step_cases h with ⟨e, rest, -, rfl⟩ | ⟨rest, -, -, rfl⟩ | ⟨rest, -, -, rfl⟩ | ⟨rest, i, hs, -, hd, hx⟩ |
    ⟨rest, -, -, -, rfl⟩
  case inr.inr.inr.inl =>
    by_cases hi : ∃ x, i = .ldDtVx x
    · obtain ⟨x, rfl⟩ := hi
      exact ⟨rest, x, _, hs, (wordAt_iff s _).mpr rfl, hd⟩
    · have hkeep : t.dt = s.dt := ((exec_frame hx).dt (Instr.touch_dt _ (not_exists.mp hi))).1
      exact absurd hlt (by rw [hkeep]; exact Nat.lt_irrefl _)
  case inl => exact absurd hlt (Nat.not_lt.mpr ((s.setPending rest).applyInput_dt_le e))
  all_goals exact absurd hlt (Nat.lt_irrefl _)

/-! ## The key wait -/

theorem State.deliver_of_waitKey {s : State} {x : RegIdx} (hm : s.mode = .waitKey x) (k : Fin 16) :
    s.deliver k = (s.setReg x (keyOperand k)).resume := by
  unfold State.deliver
  rw [hm]

theorem State.load_of_waitKey {s : State} {x : RegIdx} (hm : s.mode = .waitKey x) (bytes : List Byte) :
    s.load bytes = s := by
  unfold State.load
  rw [hm]

theorem keyOperand_toNat (k : Fin 16) : (keyOperand k).toNat = k.val := by
  have hk := k.isLt
  rw [keyOperand, BitVec.toNat_ofNat]
  omega

/-- Settles O29: LD VX,K is the suspension alone, and the delivery is one register write and the return to RUN. -/
theorem keyWaitSuspendsAndCompletes : Obligations.KeyWaitSuspendsAndCompletes := by
  refine ⟨fun s x => ⟨s.suspend x, rfl, rfl, rfl, s.frame_suspend x⟩, fun s x k rest hm hp => ?_⟩
  have hdeliver := State.deliver_of_waitKey (s := s.setPending rest) hm k
  refine ⟨_, (step_of_input hp).trans (congrArg Host.Outcome.next hdeliver), ?_, rfl, rfl, rfl,
    ((s.setPending rest).frame_setReg_resume x _).of_setPending⟩
  rw [State.resume_reg, State.setReg_reg_self, keyOperand_toNat]

/-- In WAITKEY a step request is taken and has no effect (R90; log 13). -/
theorem step_of_requestNext_of_waitKey {s : State} {x : RegIdx} {rest : List Move} (hm : s.mode = .waitKey x)
    (hr : RequestNext s rest) : step s = .next (s.setPending rest) := by
  rw [step_of_requestNext hr]
  unfold requestStep
  rw [State.setPending_mode, hm]

/-- In WAITKEY the inputs but a delivery and reset change DT and the keys alone. -/
theorem State.frame_applyInput_of_waitKey {s : State} {x : RegIdx} (hm : s.mode = .waitKey x) {e : Input}
    (hdeliver : ∀ k, e ≠ .deliver k) (hreset : e ≠ .reset) :
    Frame { dt := true, keys := true } s (s.applyInput e) := by
  cases e with
  | elapse u => exact (s.frame_elapse u).allowKeys
  | key k down => exact (s.frame_setKey k down).allowDt
  | deliver k => exact absurd rfl (hdeliver k)
  | load bytes =>
    rw [State.applyInput, State.load_of_waitKey hm]
    exact s.frame_refl _
  | reset => exact absurd rfl hreset

theorem step_frame_of_waitKey {s t : State} {x : RegIdx} (hm : s.mode = .waitKey x) (h : step s = .next t)
    (hdeliver : ∀ k rest, s.pending ≠ .input (.deliver k) :: rest)
    (hreset : ∀ rest, s.pending ≠ .input .reset :: rest) :
    Frame { dt := true, keys := true, pending := true } s t := by
  have hno : ∀ l, ¬ StepNext s l := fun _ hs => nomatch hm.symm.trans hs.1
  rcases step_cases h with ⟨e, rest, hp, rfl⟩ | ⟨rest, -, -, rfl⟩ | ⟨rest, hs, -⟩ | ⟨rest, -, hs, -⟩ | ⟨rest, hs, -⟩
  · have he : ∀ k, e ≠ .deliver k := fun k hk => hdeliver k rest (hk ▸ hp)
    have hframe := State.frame_applyInput_of_waitKey (s := s.setPending rest) hm he fun hk => hreset rest (hk ▸ hp)
    exact hframe.of_setPending
  · exact (s.frame_setPending rest).allowDt.allowKeys
  all_goals exact absurd hs (hno rest)

/-- Settles O30: the frame of such a step names neither MODE nor anything but DT and the keys; a step request and a load
have no effect at all. -/
theorem keyWaitEndsOnlyByKeyOrReset : Obligations.KeyWaitEndsOnlyByKeyOrReset := by
  intro s t x hm h hdeliver hreset
  have hframe := step_frame_of_waitKey hm h hdeliver hreset
  refine ⟨(hframe.mode rfl).1.trans hm, hframe, fun rest hr => ?_, fun bytes rest hp => ?_⟩
  · obtain rfl := Host.Outcome.next.inj ((step_of_requestNext_of_waitKey hm hr).symm.trans h)
    exact s.frame_setPending rest
  · have hload := State.load_of_waitKey (s := s.setPending rest) hm bytes
    obtain rfl := Host.Outcome.next.inj ((step_of_input hp).symm.trans h)
    rw [State.applyInput, hload]
    exact s.frame_setPending rest

/-! ## Load and reset -/

/-- Settles O50: the three cases of `load_cases`, each excluding the premises of the other two clauses. -/
theorem loadPlacesTheImage : Obligations.LoadPlacesTheImage := by
  intro s bytes rest hwf hp
  refine ⟨_, step_of_input hp, ?_⟩
  rw [State.applyInput]
  rcases (s.setPending rest).load_cases bytes with ⟨⟨x, hx⟩, e⟩ | ⟨hm, hlarge, e⟩ | ⟨hm, hfit, e⟩ <;> rw [e]
  · exact ⟨rfl, fun hm => absurd hx (hm x), fun hm => absurd hx (hm x),
      fun _ _ => (s.frame_setPending rest).allowOutputs⟩
  · exact ⟨rfl, fun _ _ => ⟨rfl, ((s.setPending rest).frame_emit _).of_setPending⟩,
      fun _ hfit => absurd hlarge (Nat.not_lt.mpr hfit), fun x hx => absurd hx (hm x)⟩
  · have hframe := State.frame_writeBytes 0x200 bytes (s.setPending rest)
    have hroom : 0x200 + bytes.length ≤ Config.memBytes := Nat.add_le_add_left hfit 0x200
    exact ⟨hframe.pending rfl, fun _ hlarge => absurd hlarge (Nat.not_lt.mpr hfit),
      fun _ _ => ⟨State.writeBytes_byte_inside 0x200 bytes (s.setPending rest) hwf hroom, hframe.of_setPending⟩,
      fun x hx => absurd hx (hm x)⟩

/-- Settles O49: the core's fields after a reset are those of `State.resetWith` under the state's parameters. -/
theorem resetFromAnyState : Obligations.ResetFromAnyState := by
  intro s rest hp
  have hreg : ∀ r, (s.setPending rest).resetCore.reg r = 0#8 := State.resetWith_reg s.params
  exact ⟨_, step_of_input hp, hreg, rfl, rfl, rfl, rfl, rfl, rfl, fun _ h => unlisted_of_lt s.params.font h,
    fun _ h _ => unlisted_of_ge s.params.font h, fun _ _ => rfl, rfl, rfl, rfl⟩

end Sys2Proof.Machine

/-! PROOFS of the statements about the invariants: of the machine at reset and in every step (O56, O57), the bound on PC
and the return addresses (O58), and the canonical form of memory (O59). -/

namespace Sys2Proof.Machine

/-! ## The invariants at reset -/

theorem State.resetWith_inv {p : Params} (h : p.wellFormed = true) : (State.resetWith p).Inv where
  paramsWf := h
  memWf := rfl
  stackWf := fun _ _ => Nat.zero_le _
  causeWf := iff_of_true rfl nofun
  phaseWf := Params.unitsPerTick_pos h

theorem State.resetWith_pcBounded (p : Params) : (State.resetWith p).PcBounded where
  pcLe := show (0x200#16).toNat ≤ 0x10FE by decide
  stackLe := nofun

/-- Settles O57: `resetWith_inv` and `resetWith_pcBounded`, for the default parameters and for all legal ones. -/
theorem resetHasTheInvariants : Obligations.ResetHasTheInvariants :=
  ⟨State.resetWith_inv (by decide), State.resetWith_pcBounded _,
    fun p hp => ⟨State.resetWith_inv hp, State.resetWith_pcBounded p⟩⟩

/-! ## What an instruction does to memory, the stack, the phase and PC -/

section
variable {i : Instr} {s t : State}

/-- An instruction leaves memory, or stores bytes in range from I on (R165, R166). -/
theorem exec_mem_cases (h : exec i s = .next t) :
    t.mem = s.mem ∨ ∃ bs, s.i.toNat + bs.length ≤ Config.memBytes ∧ t = State.writeBytes s.i.toNat bs s := by
  cases i
  case ret =>
    rcases exec_ret_cases s with ⟨-, e⟩ | ⟨a, rest, -, e⟩ <;> obtain rfl := Host.Outcome.next.inj (h.symm.trans e)
    all_goals exact .inl rfl
  case call nnn =>
    rcases exec_call_cases s nnn with ⟨-, e⟩ | ⟨-, e⟩ <;> obtain rfl := Host.Outcome.next.inj (h.symm.trans e)
    all_goals exact .inl rfl
  case drw x y n =>
    rcases exec_drw_cases s x y n with ⟨-, -, e⟩ | ⟨-, e⟩ <;> obtain rfl := Host.Outcome.next.inj (h.symm.trans e)
    all_goals exact .inl rfl
  case ldB x =>
    rcases exec_ldB_cases s x with ⟨-, e⟩ | ⟨hin, e⟩ <;> obtain rfl := Host.Outcome.next.inj (h.symm.trans e)
    · exact .inl rfl
    · exact .inr ⟨bcdDigits (s.reg x), hin, rfl⟩
  case ldMemVx x =>
    rcases exec_ldMemVx_cases s x with ⟨-, e⟩ | ⟨hin, e⟩ <;> obtain rfl := Host.Outcome.next.inj (h.symm.trans e)
    · exact .inl rfl
    · exact .inr ⟨s.firstRegs (x.toNat + 1), (s.firstRegs_length _).symm ▸ hin, rfl⟩
  case ldVxMem x =>
    rcases exec_ldVxMem_cases s x with ⟨-, e⟩ | ⟨-, e⟩ <;> obtain rfl := Host.Outcome.next.inj (h.symm.trans e)
    · exact .inl rfl
    · exact .inl (by rw [State.loadRegs_eq])
  all_goals obtain rfl := Host.Outcome.next.inj h
  case seImm | sneImm | seReg | sneReg | skp | sknp => exact .inl (by rw [State.skipIf_eq, State.setPc_mem])
  case addReg | subReg | shr | subn | shl => exact .inl (by rw [State.setResultAndFlag_eq])
  all_goals exact .inl rfl

/-- An instruction leaves the stack, pops into PC, or pushes PC on a stack that is not full (R29, R30). -/
theorem exec_stack_cases (h : exec i s = .next t) :
    t.stack = s.stack ∨ s.stack = t.pc :: t.stack ∨ (s.stackFull = false ∧ t.stack = s.pc :: s.stack) := by
  cases i
  case ret =>
    rcases exec_ret_cases s with ⟨-, e⟩ | ⟨a, rest, hs, e⟩ <;> obtain rfl := Host.Outcome.next.inj (h.symm.trans e)
    · exact .inl rfl
    · exact .inr (.inl hs)
  case call nnn =>
    rcases exec_call_cases s nnn with ⟨-, e⟩ | ⟨hroom, e⟩ <;> obtain rfl := Host.Outcome.next.inj (h.symm.trans e)
    · exact .inl rfl
    · exact .inr (.inr ⟨hroom, rfl⟩)
  all_goals exact .inl ((exec_frame h).stack rfl)

/-- An instruction leaves the tick phase or restarts it (R163). -/
theorem exec_phase_cases (h : exec i s = .next t) : t.phase = s.phase ∨ t.phase = 0 := by
  cases i
  case ldDtVx x =>
    obtain rfl := Host.Outcome.next.inj h
    exact .inr rfl
  all_goals exact .inl ((exec_frame h).dt rfl).2

/-- PC after an instruction: unmoved, skipped past the next instruction, a 12-bit address with a byte added or not, or a
return address (R27). -/
theorem exec_pc_cases (h : exec i s = .next t) :
    t.pc = s.pc ∨ t.pc.toNat = (s.pc.toNat + 2) % 65536 ∨ t.pc.toNat ≤ 0x10FE ∨ t.pc ∈ s.stack := by
  cases i
  case ret =>
    rcases exec_ret_cases s with ⟨-, e⟩ | ⟨a, rest, hs, e⟩ <;> obtain rfl := Host.Outcome.next.inj (h.symm.trans e)
    · exact .inl rfl
    · exact .inr (.inr (.inr (hs ▸ List.mem_cons_self)))
  case call nnn =>
    rcases exec_call_cases s nnn with ⟨-, e⟩ | ⟨-, e⟩ <;> obtain rfl := Host.Outcome.next.inj (h.symm.trans e)
    · exact .inl rfl
    · refine .inr (.inr (.inl ?_))
      rw [State.setPc_pc, addrOperand_toNat]
      exact Nat.le_trans (Nat.le_of_lt nnn.isLt) (by decide)
  case jp nnn =>
    obtain rfl := Host.Outcome.next.inj h
    refine .inr (.inr (.inl ?_))
    rw [State.setPc_pc, addrOperand_toNat]
    exact Nat.le_trans (Nat.le_of_lt nnn.isLt) (by decide)
  case jpV0 nnn =>
    obtain rfl := Host.Outcome.next.inj h
    refine .inr (.inr (.inl ?_))
    rw [State.setPc_pc, addrOperand_add_byteOperand_toNat]
    have hnnn := nnn.isLt
    have hv0 := (s.reg V0).isLt
    omega
  case seImm | sneImm | seReg | sneReg | skp | sknp =>
    obtain rfl := Host.Outcome.next.inj h
    rw [State.skipIf_pc_toNat, State.skipIf_eq, State.setPc_pc]
    split
    · exact .inr (.inl rfl)
    · exact .inl rfl
  all_goals exact .inl ((exec_frame h).pc rfl)

end

/-! ## The invariant of the machine is kept -/

section
variable {s t : State}

theorem State.stackFull_eq_false_iff :
    s.stackFull = false ↔ ∀ d, s.params.stackDepth = some d → s.stack.length < d := by
  rw [← Bool.not_eq_true, State.stackFull_iff]
  simp

theorem State.Inv.setPending (h : s.Inv) (l : List Move) : (s.setPending l).Inv := { h with }

theorem State.Inv.executing (h : s.Inv) (rest : List Move) : (Executing s rest).Inv := { h with }

theorem State.Inv.diagUnknown (h : s.Inv) (w addr : Word) : (s.diagUnknown w addr).Inv := { h with }

theorem State.Inv.raise (h : s.Inv) {c : Cause} (hc : c ≠ .none) : (s.raise c).Inv :=
  { h with causeWf := iff_of_false hc fun hm => hm rfl }

/-- A suspension is no halt, so it keeps the invariant in a core that has not halted. -/
theorem State.Inv.suspend (h : s.Inv) (hm : s.mode ≠ .halt) (x : RegIdx) : (s.suspend x).Inv :=
  { h with causeWf := iff_of_true (h.causeWf.mpr hm) nofun }

theorem State.Inv.writeBytes (h : s.Inv) (base : Nat) (bs : List Byte) (hin : base + bs.length ≤ Config.memBytes) :
    (State.writeBytes base bs s).Inv := by
  have hmem := State.writeBytes_wf base bs s h.memWf (.inr hin)
  rw [State.writeBytes_eq] at hmem ⊢
  exact { h with memWf := hmem }

theorem State.Inv.elapse (h : s.Inv) (u : Nat) : (s.elapse u).Inv := by
  have hphase : (s.elapse u).phase < s.params.unitsPerTick := Nat.mod_lt _ (Params.unitsPerTick_pos h.paramsWf)
  rw [State.elapse_eq] at hphase ⊢
  exact { h with phaseWf := hphase }

/-- A delivery ends a key wait, in which CAUSE is 0. -/
theorem State.Inv.deliver (h : s.Inv) (k : Fin 16) : (s.deliver k).Inv := by
  rcases s.deliver_cases k with ⟨x, hm, e⟩ | ⟨-, e⟩ <;> rw [e]
  · exact { h with causeWf := iff_of_true (h.causeWf.mpr (hm ▸ nofun)) nofun }
  · exact h

theorem State.Inv.load (h : s.Inv) (bytes : List Byte) : (s.load bytes).Inv := by
  rcases s.load_cases bytes with ⟨-, e⟩ | ⟨-, -, e⟩ | ⟨-, hfit, e⟩ <;> rw [e]
  · exact h
  · exact { h with }
  · exact h.writeBytes 0x200 bytes (Nat.add_le_add_left hfit 0x200)

theorem State.Inv.applyInput (h : s.Inv) (e : Input) : (s.applyInput e).Inv := by
  cases e with
  | elapse u => exact h.elapse u
  | key k down => exact { h with }
  | deliver k => exact h.deliver k
  | load bytes => exact h.load bytes
  | reset => exact { State.resetWith_inv h.paramsWf with }

/-- An instruction in a core that has not halted keeps the invariant. -/
theorem exec_keeps_inv {i : Instr} (hinv : s.Inv) (hm : s.mode ≠ .halt) (h : exec i s = .next t) : t.Inv := by
  have hparams := (exec_frame h).params
  constructor
  case paramsWf =>
    rw [hparams]
    exact hinv.paramsWf
  case memWf =>
    rw [hparams]
    rcases exec_mem_cases h with hmem | ⟨bs, hin, rfl⟩
    · rw [hmem]
      exact hinv.memWf
    · exact State.writeBytes_wf _ bs s hinv.memWf (.inr hin)
  case stackWf =>
    intro d hd
    rw [hparams] at hd
    have hfits := hinv.stackWf d hd
    rcases exec_stack_cases h with hkeep | hpop | ⟨hroom, hpush⟩
    · rwa [hkeep]
    · rw [hpop] at hfits
      exact Nat.le_of_succ_le hfits
    · rw [hpush]
      exact State.stackFull_eq_false_iff.mp hroom d hd
  case causeWf =>
    rcases exec_ends h with ⟨hmode, hcause⟩ | ⟨x, -, rfl⟩ | ⟨c, hc, rfl⟩
    · rw [hmode, hcause]
      exact hinv.causeWf
    · exact (hinv.suspend hm x).causeWf
    · exact (hinv.raise hc).causeWf
  case phaseWf =>
    rw [hparams]
    rcases exec_phase_cases h with hphase | hphase <;> rw [hphase]
    · exact hinv.phaseWf
    · exact Params.unitsPerTick_pos hinv.paramsWf

theorem step_keeps_inv (hinv : s.Inv) (h : step s = .next t) : t.Inv := by
  rcases step_cases h with ⟨e, rest, -, rfl⟩ | ⟨rest, -, -, rfl⟩ | ⟨rest, -, -, rfl⟩ | ⟨rest, i, hs, -, -, hx⟩ |
    ⟨rest, -, -, -, rfl⟩
  · exact (hinv.setPending rest).applyInput e
  · exact hinv.setPending rest
  · exact (hinv.setPending rest).raise nofun
  · have hm : (Executing s rest).mode ≠ .halt := fun hm => nomatch hs.1.symm.trans hm
    exact exec_keeps_inv (hinv.executing rest) hm hx
  · exact (hinv.executing rest).diagUnknown _ _

/-! ## The parameters, PC and the stack in a step -/

/-- Of the inputs reset alone touches PC or the stack. -/
theorem State.applyInput_pc_stack (s : State) {e : Input} (he : e ≠ .reset) :
    (s.applyInput e).pc = s.pc ∧ (s.applyInput e).stack = s.stack := by
  cases e with
  | elapse u => exact ⟨(s.frame_elapse u).pc rfl, (s.frame_elapse u).stack rfl⟩
  | key k down => exact ⟨rfl, rfl⟩
  | deliver k =>
    rcases s.deliver_cases k with ⟨x, -, e⟩ | ⟨-, e⟩ <;> rw [State.applyInput, e]
    all_goals exact ⟨rfl, rfl⟩
  | load bytes =>
    rcases s.load_cases bytes with ⟨-, e⟩ | ⟨-, -, e⟩ | ⟨-, -, e⟩ <;> rw [State.applyInput, e]
    · exact ⟨rfl, rfl⟩
    · exact ⟨rfl, rfl⟩
    · exact ⟨(State.frame_writeBytes 0x200 bytes s).pc rfl, (State.frame_writeBytes 0x200 bytes s).stack rfl⟩
  | reset => exact absurd rfl he

@[simp] theorem State.applyInput_params (s : State) (e : Input) : (s.applyInput e).params = s.params := by
  cases e with
  | elapse u => exact (s.frame_elapse u).params
  | deliver k =>
    rcases s.deliver_cases k with ⟨x, -, e⟩ | ⟨-, e⟩ <;> rw [State.applyInput, e]
    rfl
  | load bytes =>
    rcases s.load_cases bytes with ⟨-, e⟩ | ⟨-, -, e⟩ | ⟨-, -, e⟩ <;> rw [State.applyInput, e]
    · rfl
    · exact State.writeBytes_params 0x200 bytes s
  | key | reset => rfl

theorem step_params (h : step s = .next t) : t.params = s.params := by
  rcases step_cases h with ⟨e, rest, -, rfl⟩ | ⟨rest, -, -, rfl⟩ | ⟨rest, -, -, rfl⟩ | ⟨rest, i, -, -, -, hx⟩ |
    ⟨rest, -, -, -, rfl⟩
  case inl => exact (s.setPending rest).applyInput_params e
  case inr.inr.inr.inl => exact (exec_frame hx).params
  all_goals rfl

/-- An instruction executed with PC and the return addresses at most 0x1000 keeps the bound (R27). -/
theorem exec_pcBounded {i : Instr} (hpc : s.pc.toNat ≤ 0x1000) (hstack : ∀ a ∈ s.stack, a.toNat ≤ 0x1000)
    (h : exec i s = .next t) : t.PcBounded := by
  constructor
  case pcLe =>
    rcases exec_pc_cases h with hkeep | hskip | hjump | hret
    · rw [hkeep]
      omega
    · omega
    · exact hjump
    · exact Nat.le_trans (hstack _ hret) (by decide)
  case stackLe =>
    rcases exec_stack_cases h with hkeep | hpop | ⟨-, hpush⟩
    · rwa [hkeep]
    · exact fun a ha => hstack a (hpop ▸ List.mem_cons_of_mem _ ha)
    · rw [hpush]
      exact List.forall_mem_cons.mpr ⟨hpc, hstack⟩

theorem step_keeps_pcBounded (hb : s.PcBounded) (h : step s = .next t) : t.PcBounded := by
  have hadvance (hpc : s.pc.toNat ≤ 0xFFE) : (s.pc + 2#16).toNat ≤ 0x1000 := by
    rw [BitVec.toNat_add, BitVec.toNat_ofNat]
    omega
  rcases step_cases h with ⟨e, rest, -, rfl⟩ | ⟨rest, -, -, rfl⟩ | ⟨rest, -, -, rfl⟩ | ⟨rest, i, -, hpc, -, hx⟩ |
    ⟨rest, -, hpc, -, rfl⟩
  · by_cases he : e = .reset
    · subst he
      exact { State.resetWith_pcBounded s.params with }
    · obtain ⟨hpc, hstack⟩ := (s.setPending rest).applyInput_pc_stack he
      exact ⟨hpc ▸ hb.pcLe, hstack ▸ hb.stackLe⟩
  · exact { hb with }
  · exact { hb with }
  · exact exec_pcBounded (s := Executing s rest) (hadvance hpc) hb.stackLe hx
  · exact ⟨Nat.le_trans (hadvance hpc) (by decide), hb.stackLe⟩

end

/-- Settles O56: `step_keeps_inv` and `step_params`. -/
theorem stepKeepsTheInvariant : Obligations.StepKeepsTheInvariant := fun _ _ hinv h =>
  ⟨step_keeps_inv hinv h, step_params h⟩

/-- Settles O58: `step_keeps_pcBounded`; PC is at most 0xFFE where an instruction is fetched, so no sum in it wraps. -/
theorem pcStaysBounded : Obligations.PcStaysBounded := fun _ _ => step_keeps_pcBounded

/-! ## The canonical form of memory -/

section
variable {font : Font} {m m' : Memory} {lo a : Nat} {v : Byte}

theorem Memory.wfFrom_cons_iff : Memory.wfFrom font lo ((a, v) :: m) = true ↔
    lo ≤ a ∧ a < Config.memBytes ∧ v ≠ unlisted font a ∧ Memory.wfFrom font (a + 1) m = true := by
  simp [Memory.wfFrom, and_assoc]

@[simp] theorem Memory.read_cons_self (font : Font) (a : Nat) (v : Byte) (m : Memory) :
    Memory.read font ((a, v) :: m) a = v := by rw [Memory.read_cons, if_pos rfl]

/-- A canonical memory from `lo` on lists no address below `lo`. -/
theorem Memory.le_of_read_ne_unlisted (hm : Memory.wfFrom font lo m = true)
    (h : Memory.read font m a ≠ unlisted font a) : lo ≤ a :=
  Nat.le_of_not_lt fun hlt => h (Memory.read_of_lt font hm hlt)

/-- The first cells of two canonical memories that read alike are at the same address: each address reads as listed in
the other memory too, so it is not below that memory's first. -/
theorem Memory.head_le_of_read_eq {b : Nat} {u : Byte} (ha : v ≠ unlisted font a)
    (hm' : Memory.wfFrom font lo ((b, u) :: m') = true)
    (h : ∀ q, Memory.read font ((a, v) :: m) q = Memory.read font ((b, u) :: m') q) : b ≤ a := by
  obtain ⟨-, hb⟩ := Memory.wfFrom_cons_iff.mp hm'
  refine Memory.le_of_read_ne_unlisted (Memory.wfFrom_cons_iff.mpr ⟨Nat.le_refl b, hb⟩) ?_
  rwa [← h a, Memory.read_cons_self]

/-- The rests of two canonical memories with the same first cell read alike if the memories do. -/
theorem Memory.tail_read_eq (hm : Memory.wfFrom font (a + 1) m = true) (hm' : Memory.wfFrom font (a + 1) m' = true)
    (h : ∀ q, Memory.read font ((a, v) :: m) q = Memory.read font ((a, v) :: m') q) (q : Nat) :
    Memory.read font m q = Memory.read font m' q := by
  by_cases hq : q = a
  · rw [hq, Memory.read_of_lt font hm (Nat.lt_succ_self a), Memory.read_of_lt font hm' (Nat.lt_succ_self a)]
  · simpa [Memory.read_cons, hq] using h q

/-- A canonical memory that reads as reset content everywhere lists nothing. -/
theorem Memory.eq_nil_of_read_unlisted (hm : Memory.wfFrom font lo m = true)
    (h : ∀ q, Memory.read font m q = unlisted font q) : m = [] := by
  cases m with
  | nil => rfl
  | cons c m =>
    obtain ⟨a, v⟩ := c
    obtain ⟨-, -, hv, -⟩ := Memory.wfFrom_cons_iff.mp hm
    exact absurd ((Memory.read_cons_self font a v m).symm.trans (h a)) hv

theorem Memory.eq_of_read_eq (hm : Memory.wfFrom font lo m = true) (hm' : Memory.wfFrom font lo m' = true)
    (h : ∀ q, Memory.read font m q = Memory.read font m' q) : m = m' := by
  induction m generalizing lo m' with
  | nil => exact (Memory.eq_nil_of_read_unlisted hm' fun q => (h q).symm).symm
  | cons c m ih =>
    obtain ⟨a, v⟩ := c
    cases m' with
    | nil => exact Memory.eq_nil_of_read_unlisted hm h
    | cons c' m' =>
      obtain ⟨b, u⟩ := c'
      obtain ⟨-, -, hv, htail⟩ := Memory.wfFrom_cons_iff.mp hm
      obtain ⟨-, -, hu, htail'⟩ := Memory.wfFrom_cons_iff.mp hm'
      obtain rfl : a = b := Nat.le_antisymm (Memory.head_le_of_read_eq hu hm fun q => (h q).symm)
        (Memory.head_le_of_read_eq hv hm' h)
      obtain rfl : v = u := by simpa using h a
      rw [ih htail htail' (Memory.tail_read_eq htail htail' h)]

end

/-- Settles O59: `Memory.eq_of_read_eq`, an induction over the list for every lowest address. -/
theorem canonicalMemoryIsUnique : Obligations.CanonicalMemoryIsUnique := fun _ _ _ => Memory.eq_of_read_eq

end Sys2Proof.Machine

/-! PROOFS of the statements that put the effects of instructions together: RND (O17), a draw of no rows and a draw
repeated (O19, O20), a bulk store followed by a bulk load (O34) or by a fetch of what it stored (O46), and the jump to itself
(O47). -/

namespace Sys2Proof.Machine

/-- Settles O17: one register write of the masked byte, and one draw counted. -/
theorem rndMasksTheFreeByte : Obligations.RndMasksTheFreeByte := by
  intro s x nn
  have hreg : (s.countDraw.setReg x (s.randomByte &&& nn)).reg x = s.randomByte &&& nn := State.setReg_reg_self _ _ _
  refine ⟨_, rfl, hreg, rfl, fun k hk => ?_, s.frame_countDraw_setReg x _⟩
  rw [hreg, BitVec.getLsbD_and, hk, Bool.and_false]

/-! ## The sprite draw -/

section
variable {s t : State} {x y : RegIdx} {n : Nibble}

theorem not_spriteCovers_zero (p : Fin 64) (q : Fin 32) : ¬ SpriteCovers s x y 0#4 p q :=
  fun ⟨_, _, hrow, _⟩ => Nat.not_lt_zero _ hrow

/-- The sprite is a matter of VX, VY, I and memory alone. -/
theorem spriteCovers_congr (hx : t.reg x = s.reg x) (hy : t.reg y = s.reg y) (hi : t.i = s.i)
    (hmem : ∀ a, t.byte a = s.byte a) (p : Fin 64) (q : Fin 32) :
    SpriteCovers t x y n p q ↔ SpriteCovers s x y n p q := by
  simp only [SpriteCovers, hx, hy, hi, hmem]

end

/-- A pixel that two draws flip, or neither, is back where it was. -/
theorem eq_of_flipped_alike : ∀ {a b c : Bool}, (a ≠ b ↔ b ≠ c) → a = c := by decide

/-- A frame that leaves every pixel needs no permission for the framebuffer. -/
theorem Frame.withoutFb {c : Touch} {s t : State} (h : Frame c s t) (hfb : ∀ p q, t.pixel p q = s.pixel p q) :
    Frame { c with fb := false } s t := { h with fb := fun _ => hfb }

/-- Settles O19: the draw of O18, whose sprite covers no pixel. -/
theorem drwOfZeroRowsClearsVf : Obligations.DrwOfZeroRowsClearsVf := by
  intro s x y
  obtain ⟨t, hx, hflip, -, hclear, hout, hframe⟩ := (drwXorsSpriteIntoFramebuffer s x y 0#4).1 (.inl rfl)
  have hfb : ∀ p q, t.pixel p q = s.pixel p q := fun p q =>
    eq_of_not_flipped fun h => not_spriteCovers_zero p q ((hflip p q).mp h)
  exact ⟨t, hx, hclear fun p q h => absurd h (not_spriteCovers_zero p q), hout, hframe.withoutFb hfb⟩

/-- Settles O20: two draws of O18. The first changes nothing the sprite depends on, as X and Y are not 15, so the second
covers the same pixels and flips them back. -/
theorem drwTwiceRestoresThePicture : Obligations.DrwTwiceRestoresThePicture := by
  intro s x y n hxf hyf hrange
  obtain ⟨t, hexec, hflip, -, hmiss, -, hframe⟩ := (drwXorsSpriteIntoFramebuffer s x y n).1 hrange
  have hi : t.i = s.i := hframe.i rfl
  have hmem : ∀ a, t.byte a = s.byte a := fun a => hframe.mem a (by simp)
  have hcovers := spriteCovers_congr (n := n) (hframe.regs x (by simpa using hxf)) (hframe.regs y (by simpa using hyf))
    hi hmem
  obtain ⟨u, hexec', hflip', hhit', -⟩ := (drwXorsSpriteIntoFramebuffer t x y n).1 (hi.symm ▸ hrange)
  refine ⟨t, u, hexec, hexec', fun p q => ?_, fun hclear ⟨p, q, hpq⟩ => ⟨hmiss fun p q _ => hclear p q, ?_⟩⟩
  · exact eq_of_flipped_alike ((hflip' p q).trans ((hcovers p q).trans (hflip p q).symm))
  · have hset : t.pixel p q = true := by
      have hne := (hflip p q).mpr hpq
      rw [hclear p q] at hne
      exact Bool.eq_true_of_not_eq_false hne
    exact hhit' ⟨p, q, (hcovers p q).mpr hpq, hset⟩

/-! ## The bulk store and what reads it back -/

/-- Settles O34: the store of O32 and the load of O33, at the same I. -/
theorem bulkStoreThenLoadRestoresRegisters : Obligations.BulkStoreThenLoadRestoresRegisters := by
  intro s x v hwf hrange
  obtain ⟨t, hstore, hbyte, hframe⟩ := (bulkStoreWritesRegisters s x hwf).1 hrange
  have hi : t.i = s.i := hframe.i rfl
  obtain ⟨u, hload, hreg, hframe'⟩ := (bulkLoadReadsMemory { t with v := v } x).1 (hi.symm ▸ hrange)
  refine ⟨t, u, hstore, hload, fun r hr => ?_, hi, (hframe'.i rfl).trans hi⟩
  calc u.reg r
    _ = t.byte (t.i.toNat + r.toNat) := hreg r hr
    _ = s.reg r := by rw [hi, hbyte r hr]

/-- Settles O46: the step is the store of O32 in the execute phase, whose first two bytes lie where PC then points. -/
theorem storedBytesAreFetchedNext : Obligations.StoredBytesAreFetchedNext := by
  intro s rest w x hs hpc hw hd hx hi hrange hwf
  obtain ⟨t, hstore, hbyte, hframe⟩ := (bulkStoreWritesRegisters (Executing s rest) x hwf).1 hrange
  have htpc : t.pc = s.i := (hframe.pc rfl).trans hi.symm
  refine ⟨t, (step_of_known hs hpc hw hd).trans hstore, (hframe.mode rfl).1.trans hs.1, hframe.pc rfl, fun w' hw' => ?_⟩
  have hfirst : t.byte s.i.toNat = s.reg 0#4 := hbyte 0#4 (Nat.zero_le _)
  have hsecond : t.byte (s.i.toNat + 1) = s.reg 1#4 := hbyte 1#4 hx
  rw [WordAt, htpc, hfirst, hsecond] at hw'
  exact hw'

/-! ## The jump to itself -/

/-- Settles O47: the jump sets PC back to where the word was fetched, and no pending move is taken. -/
theorem jumpToSelfChangesNothing : Obligations.JumpToSelfChangesNothing := by
  intro s w nnn hm hp hpc hw hd heq
  have htarget : addrOperand nnn = s.pc := BitVec.eq_of_toNat_eq ((addrOperand_toNat nnn).trans heq)
  have hback : (Executing s []).setPc s.pc = s.setPending [] := rfl
  have hkeep : s.setPending [] = s := by rw [← hp]; rfl
  calc step s
    _ = .next ((Executing s []).setPc (addrOperand nnn)) := step_of_known ⟨hm, .inl ⟨hp, rfl⟩⟩ hpc hw hd
    _ = .next s := by rw [htarget, hback, hkeep]

end Sys2Proof.Machine
